-- ==== Sys2Proof/Word.lean ====
section
/-! DEFINITION. The bit widths of the machine (R5, R6): bytes, 16-bit words, the 4-bit register field, the 12-bit
address field. -/

namespace Sys2Proof

/-- A memory cell, an 8-bit immediate `NN`, or one random value (R5 `MEMCELL`, `RNDBITS`; R7). -/
abbrev Byte := BitVec 8

/-- A register cell, `I`, `PC`, a stack entry, a timer, or an instruction word (R5 `VBITS`, `OPBITS`, D9). -/
abbrev Word := BitVec 16

/-- A 4-bit field of an instruction: a register index `X` or `Y`, a sprite height `N` (R7), or a key code (R273). -/
abbrev Nibble := BitVec 4

/-- A register index, which cannot exceed 15 (R21). -/
abbrev Reg := BitVec 4

/-- The 12-bit address field `NNN` (R7). -/
abbrev Addr12 := BitVec 12

end Sys2Proof
end

