-- ==== Sys2Proof/Syntax.lean ====
section
/-! DEFINITION. The instruction set as syntax: one constructor per row of R99, and what a decoder answers (R97). -/

namespace Sys2Proof

/-- The 34 instructions of R99, in the table's order, with the operand fields of R7. Every term is well-formed: each
operand is exactly as wide as its field (R21, R92). The `y` of `shr` and `shl` is encoded but is not an operand
(R168, R170). -/
inductive Instr where
  | cls                                  -- 00E0 CLS
  | ret                                  -- 00EE RET
  | jp (nnn : Addr12)                    -- 1NNN JP NNN
  | call (nnn : Addr12)                  -- 2NNN CALL NNN
  | seImm (x : Reg) (nn : Byte)          -- 3XNN SE Vx, NN
  | sneImm (x : Reg) (nn : Byte)         -- 4XNN SNE Vx, NN
  | seReg (x y : Reg)                    -- 5XY0 SE Vx, Vy
  | ldImm (x : Reg) (nn : Byte)          -- 6XNN LD Vx, NN
  | addImm (x : Reg) (nn : Byte)         -- 7XNN ADD Vx, NN
  | ldReg (x y : Reg)                    -- 8XY0 LD Vx, Vy
  | orReg (x y : Reg)                    -- 8XY1 OR Vx, Vy
  | andReg (x y : Reg)                   -- 8XY2 AND Vx, Vy
  | xorReg (x y : Reg)                   -- 8XY3 XOR Vx, Vy
  | addReg (x y : Reg)                   -- 8XY4 ADD Vx, Vy
  | subReg (x y : Reg)                   -- 8XY5 SUB Vx, Vy
  | shr (x y : Reg)                      -- 8XY6 SHR Vx
  | subnReg (x y : Reg)                  -- 8XY7 SUBN Vx, Vy
  | shl (x y : Reg)                      -- 8XYE SHL Vx
  | sneReg (x y : Reg)                   -- 9XY0 SNE Vx, Vy
  | ldI (nnn : Addr12)                   -- ANNN LD I, NNN
  | jpV0 (nnn : Addr12)                  -- BNNN JP V0, NNN
  | rnd (x : Reg) (nn : Byte)            -- CXNN RND Vx, NN
  | drw (x y : Reg) (n : Nibble)         -- DXYN DRW Vx, Vy, N
  | skp (x : Reg)                        -- EX9E SKP Vx
  | sknp (x : Reg)                       -- EXA1 SKNP Vx
  | ldVxDt (x : Reg)                     -- FX07 LD Vx, DT
  | ldVxK (x : Reg)                      -- FX0A LD Vx, K
  | ldDtVx (x : Reg)                     -- FX15 LD DT, Vx
  | ldStVx (x : Reg)                     -- FX18 LD ST, Vx
  | addIVx (x : Reg)                     -- FX1E ADD I, Vx
  | ldFVx (x : Reg)                      -- FX29 LD F, Vx
  | ldBVx (x : Reg)                      -- FX33 LD B, Vx
  | ldMemVx (x : Reg)                    -- FX55 LD [I], Vx
  | ldVxMem (x : Reg)                    -- FX65 LD Vx, [I]
deriving DecidableEq, Repr

/-- What a decoder answers for a word (R97): one of the 34 instructions, or `UNRECOGNISED` with the word (R100). -/
inductive Decoded where
  | instr (i : Instr)
  | unrecognised (w : Word)
deriving DecidableEq, Repr

/-- A row of R99: a word matches it when `(op AND mask) = match`. -/
structure OpRow where
  mnemonic : String
  fixed    : Word
  mask     : Word
deriving DecidableEq, Repr

end Sys2Proof
end

