-- ==== Sys2Proof/Decode.lean ====
section
/-! DEFINITION. The encodings (R90 to R101): fields, the decoder, the opcode table R99, and the encoder. -/

namespace Sys2Proof

/-! ### The fields of a word (R6, R7, R91) -/

/-- `N1 = op[15:12]`, the family (R93). -/
def fieldFamily (w : Word) : Nibble := w.extractLsb' 12 4
/-- `X = op[11:8]`. -/
def fieldX (w : Word) : Reg := w.extractLsb' 8 4
/-- `Y = op[7:4]`. -/
def fieldY (w : Word) : Reg := w.extractLsb' 4 4
/-- `N = op[3:0]`. -/
def fieldN (w : Word) : Nibble := w.extractLsb' 0 4
/-- `NN = op[7:0]`. -/
def fieldNN (w : Word) : Byte := w.extractLsb' 0 8
/-- `NNN = op[11:0]`. -/
def fieldNNN (w : Word) : Addr12 := w.extractLsb' 0 12

/-- The two bytes of an instruction as one word, the first (lower) address the more significant (R64, R90). -/
def wordOfBytes (hi lo : Byte) : Word := hi ++ lo
/-- The byte of a word that lies at the lower address (R64). -/
def highByte (w : Word) : Byte := w.extractLsb' 8 8
/-- The byte of a word that lies at the higher address (R64). -/
def lowByte (w : Word) : Byte := w.extractLsb' 0 8

/-! ### The decoder -/

/-- Family 8 selects on the low nibble (R94). -/
def decodeMath (w : Word) : Decoded :=
  let x := fieldX w
  let y := fieldY w
  match (fieldN w).toNat with
  | 0x0 => .instr (.ldReg x y)
  | 0x1 => .instr (.orReg x y)
  | 0x2 => .instr (.andReg x y)
  | 0x3 => .instr (.xorReg x y)
  | 0x4 => .instr (.addReg x y)
  | 0x5 => .instr (.subReg x y)
  | 0x6 => .instr (.shr x y)
  | 0x7 => .instr (.subnReg x y)
  | 0xE => .instr (.shl x y)
  | _   => .unrecognised w

/-- Family E selects on the low byte (R94). -/
def decodeKey (w : Word) : Decoded :=
  match (fieldNN w).toNat with
  | 0x9E => .instr (.skp (fieldX w))
  | 0xA1 => .instr (.sknp (fieldX w))
  | _    => .unrecognised w

/-- Family F selects on the low byte (R94). -/
def decodeMixed (w : Word) : Decoded :=
  let x := fieldX w
  match (fieldNN w).toNat with
  | 0x07 => .instr (.ldVxDt x)
  | 0x0A => .instr (.ldVxK x)
  | 0x15 => .instr (.ldDtVx x)
  | 0x18 => .instr (.ldStVx x)
  | 0x1E => .instr (.addIVx x)
  | 0x29 => .instr (.ldFVx x)
  | 0x33 => .instr (.ldBVx x)
  | 0x55 => .instr (.ldMemVx x)
  | 0x65 => .instr (.ldVxMem x)
  | _    => .unrecognised w

/-- Family 0 selects on the whole word (R96). -/
def decodeZero (w : Word) : Decoded :=
  match w.toNat with
  | 0x00E0 => .instr .cls
  | 0x00EE => .instr .ret
  | _      => .unrecognised w

/-- The decoder, total on words (R93 to R97): dispatch on the family, families 5 and 9 with `N4 = 0` only (R95, D14). -/
def decode (w : Word) : Decoded :=
  match (fieldFamily w).toNat with
  | 0x0 => decodeZero w
  | 0x1 => .instr (.jp (fieldNNN w))
  | 0x2 => .instr (.call (fieldNNN w))
  | 0x3 => .instr (.seImm (fieldX w) (fieldNN w))
  | 0x4 => .instr (.sneImm (fieldX w) (fieldNN w))
  | 0x5 => if fieldN w = 0 then .instr (.seReg (fieldX w) (fieldY w)) else .unrecognised w
  | 0x6 => .instr (.ldImm (fieldX w) (fieldNN w))
  | 0x7 => .instr (.addImm (fieldX w) (fieldNN w))
  | 0x8 => decodeMath w
  | 0x9 => if fieldN w = 0 then .instr (.sneReg (fieldX w) (fieldY w)) else .unrecognised w
  | 0xA => .instr (.ldI (fieldNNN w))
  | 0xB => .instr (.jpV0 (fieldNNN w))
  | 0xC => .instr (.rnd (fieldX w) (fieldNN w))
  | 0xD => .instr (.drw (fieldX w) (fieldY w) (fieldN w))
  | 0xE => decodeKey w
  | 0xF => decodeMixed w
  | _   => .unrecognised w

/-- The decoder on the two bytes of an instruction as memory holds them (R64). Every pair of bytes decodes. -/
def decodeBytes (hi lo : Byte) : Decoded := decode (wordOfBytes hi lo)

/-- The instruction the decoder reads from bits numbered as the opcode table numbers them: the word laid out in
memory, most significant byte first, and given to `decodeBytes`. `none` where the word is `UNRECOGNISED`. -/
def decodeTableWord (nbits w : Nat) : Option Instr :=
  let op := BitVec.ofNat 16 (w % 2 ^ nbits)
  match decodeBytes (highByte op) (lowByte op) with
  | .instr i        => some i
  | .unrecognised _ => none

/-! ### The opcode table, as masks and matches (R99) -/

/-- Rows 1 to 9 of R99. -/
def opRowsLow : List OpRow :=
  [⟨"CLS", 0x00E0#16, 0xFFFF#16⟩, ⟨"RET", 0x00EE#16, 0xFFFF#16⟩, ⟨"JP_NNN", 0x1000#16, 0xF000#16⟩,
   ⟨"CALL_NNN", 0x2000#16, 0xF000#16⟩, ⟨"SE_Vx__NN", 0x3000#16, 0xF000#16⟩, ⟨"SNE_Vx__NN", 0x4000#16, 0xF000#16⟩,
   ⟨"SE_Vx__Vy", 0x5000#16, 0xF00F#16⟩, ⟨"LD_Vx__NN", 0x6000#16, 0xF000#16⟩, ⟨"ADD_Vx__NN", 0x7000#16, 0xF000#16⟩]

/-- Rows 10 to 18 of R99 (family 8). -/
def opRowsMath : List OpRow :=
  [⟨"LD_Vx__Vy", 0x8000#16, 0xF00F#16⟩, ⟨"OR_Vx__Vy", 0x8001#16, 0xF00F#16⟩, ⟨"AND_Vx__Vy", 0x8002#16, 0xF00F#16⟩,
   ⟨"XOR_Vx__Vy", 0x8003#16, 0xF00F#16⟩, ⟨"ADD_Vx__Vy", 0x8004#16, 0xF00F#16⟩, ⟨"SUB_Vx__Vy", 0x8005#16, 0xF00F#16⟩,
   ⟨"SHR_Vx", 0x8006#16, 0xF00F#16⟩, ⟨"SUBN_Vx__Vy", 0x8007#16, 0xF00F#16⟩, ⟨"SHL_Vx", 0x800E#16, 0xF00F#16⟩]

/-- Rows 19 to 25 of R99. -/
def opRowsHigh : List OpRow :=
  [⟨"SNE_Vx__Vy", 0x9000#16, 0xF00F#16⟩, ⟨"LD_I__NNN", 0xA000#16, 0xF000#16⟩, ⟨"JP_V0__NNN", 0xB000#16, 0xF000#16⟩,
   ⟨"RND_Vx__NN", 0xC000#16, 0xF000#16⟩, ⟨"DRW_Vx__Vy__N", 0xD000#16, 0xF000#16⟩, ⟨"SKP_Vx", 0xE09E#16, 0xF0FF#16⟩,
   ⟨"SKNP_Vx", 0xE0A1#16, 0xF0FF#16⟩]

/-- Rows 26 to 34 of R99 (family F). -/
def opRowsMixed : List OpRow :=
  [⟨"LD_Vx__DT", 0xF007#16, 0xF0FF#16⟩, ⟨"LD_Vx__K", 0xF00A#16, 0xF0FF#16⟩, ⟨"LD_DT__Vx", 0xF015#16, 0xF0FF#16⟩,
   ⟨"LD_ST__Vx", 0xF018#16, 0xF0FF#16⟩, ⟨"ADD_I__Vx", 0xF01E#16, 0xF0FF#16⟩, ⟨"LD_F__Vx", 0xF029#16, 0xF0FF#16⟩,
   ⟨"LD_B__Vx", 0xF033#16, 0xF0FF#16⟩, ⟨"LD__I___Vx", 0xF055#16, 0xF0FF#16⟩, ⟨"LD_Vx___I", 0xF065#16, 0xF0FF#16⟩]

/-- The 34 rows of R99 in the table's order, under the mnemonics of spec/opcode_table.json. -/
def opcodeTable : List OpRow := opRowsLow ++ opRowsMath ++ opRowsHigh ++ opRowsMixed

/-- A word matches a row when `(op AND mask) = match` (R97). -/
def rowMatches (r : OpRow) (w : Word) : Bool := (w &&& r.mask) == r.fixed

/-- A word is recognised when it matches some row of R99 (R97, R100). -/
def recognised (w : Word) : Bool := opcodeTable.any (fun r => rowMatches r w)

/-! ### The encoder -/

/-- Format `NNN` of R91. -/
def formatNNN (family : Nibble) (nnn : Addr12) : Word := family ++ nnn
/-- Format `XNN` of R91. -/
def formatXNN (family : Nibble) (x : Reg) (nn : Byte) : Word := family ++ (x ++ nn : Addr12)
/-- Formats `XY` and `XYN` of R91: the last nibble is a sub-opcode or the height `N`. -/
def formatXYN (family : Nibble) (x y : Reg) (n : Nibble) : Word := family ++ (x ++ (y ++ n : Byte) : Addr12)

/-- The word of an instruction: its `match` value with each operand field at its place (R91, R103). -/
def encode : Instr → Word
  | .cls          => 0x00E0#16
  | .ret          => 0x00EE#16
  | .jp nnn       => formatNNN 0x1 nnn
  | .call nnn     => formatNNN 0x2 nnn
  | .seImm x nn   => formatXNN 0x3 x nn
  | .sneImm x nn  => formatXNN 0x4 x nn
  | .seReg x y    => formatXYN 0x5 x y 0x0
  | .ldImm x nn   => formatXNN 0x6 x nn
  | .addImm x nn  => formatXNN 0x7 x nn
  | .ldReg x y    => formatXYN 0x8 x y 0x0
  | .orReg x y    => formatXYN 0x8 x y 0x1
  | .andReg x y   => formatXYN 0x8 x y 0x2
  | .xorReg x y   => formatXYN 0x8 x y 0x3
  | .addReg x y   => formatXYN 0x8 x y 0x4
  | .subReg x y   => formatXYN 0x8 x y 0x5
  | .shr x y      => formatXYN 0x8 x y 0x6
  | .subnReg x y  => formatXYN 0x8 x y 0x7
  | .shl x y      => formatXYN 0x8 x y 0xE
  | .sneReg x y   => formatXYN 0x9 x y 0x0
  | .ldI nnn      => formatNNN 0xA nnn
  | .jpV0 nnn     => formatNNN 0xB nnn
  | .rnd x nn     => formatXNN 0xC x nn
  | .drw x y n    => formatXYN 0xD x y n
  | .skp x        => formatXNN 0xE x 0x9E
  | .sknp x       => formatXNN 0xE x 0xA1
  | .ldVxDt x     => formatXNN 0xF x 0x07
  | .ldVxK x      => formatXNN 0xF x 0x0A
  | .ldDtVx x     => formatXNN 0xF x 0x15
  | .ldStVx x     => formatXNN 0xF x 0x18
  | .addIVx x     => formatXNN 0xF x 0x1E
  | .ldFVx x      => formatXNN 0xF x 0x29
  | .ldBVx x      => formatXNN 0xF x 0x33
  | .ldMemVx x    => formatXNN 0xF x 0x55
  | .ldVxMem x    => formatXNN 0xF x 0x65

/-- The row number of R99 (counted from 0) that an instruction belongs to. -/
def rowOf : Instr → Nat
  | .cls => 0 | .ret => 1 | .jp _ => 2 | .call _ => 3 | .seImm _ _ => 4 | .sneImm _ _ => 5 | .seReg _ _ => 6
  | .ldImm _ _ => 7 | .addImm _ _ => 8 | .ldReg _ _ => 9 | .orReg _ _ => 10 | .andReg _ _ => 11 | .xorReg _ _ => 12
  | .addReg _ _ => 13 | .subReg _ _ => 14 | .shr _ _ => 15 | .subnReg _ _ => 16 | .shl _ _ => 17 | .sneReg _ _ => 18
  | .ldI _ => 19 | .jpV0 _ => 20 | .rnd _ _ => 21 | .drw _ _ _ => 22 | .skp _ => 23 | .sknp _ => 24 | .ldVxDt _ => 25
  | .ldVxK _ => 26 | .ldDtVx _ => 27 | .ldStVx _ => 28 | .addIVx _ => 29 | .ldFVx _ => 30 | .ldBVx _ => 31
  | .ldMemVx _ => 32 | .ldVxMem _ => 33

end Sys2Proof
end

