-- ==== Sys2Proof/Machine/Font.lean ====
section
/-! DEFINITION. The parameter `FONT` (R5, R63) at the spec's default: sixteen glyphs of five bytes. The bytes are
customary and not in the source (G1, D25): PRESUMED, log entry 4. No rule depends on them, only on the layout `d*5`. -/

namespace Sys2Proof.Machine

/-- `FONT[0..79]` (R63): glyph `d` is bytes `d*5 .. d*5+4`. -/
def font : List Byte :=
  [0xF0, 0x90, 0x90, 0x90, 0xF0,   0x20, 0x60, 0x20, 0x20, 0x70,   -- 0 1
   0xF0, 0x10, 0xF0, 0x80, 0xF0,   0xF0, 0x10, 0xF0, 0x10, 0xF0,   -- 2 3
   0x90, 0x90, 0xF0, 0x10, 0x10,   0xF0, 0x80, 0xF0, 0x10, 0xF0,   -- 4 5
   0xF0, 0x80, 0xF0, 0x90, 0xF0,   0xF0, 0x10, 0x20, 0x40, 0x40,   -- 6 7
   0xF0, 0x90, 0xF0, 0x90, 0xF0,   0xF0, 0x90, 0xF0, 0x10, 0xF0,   -- 8 9
   0xF0, 0x90, 0xF0, 0x90, 0x90,   0xE0, 0x90, 0xE0, 0x90, 0xE0,   -- A B
   0xF0, 0x80, 0x80, 0x80, 0xF0,   0xE0, 0x90, 0x90, 0x90, 0xE0,   -- C D
   0xF0, 0x80, 0xF0, 0x80, 0xF0,   0xF0, 0x80, 0xF0, 0x80, 0x80]   -- E F

end Sys2Proof.Machine
end

