-- ==== Sys2Proof/Config.lean ====
section
/-! DEFINITION. The constants of the hardware (R5) and the one free value of the spec, the random input of `CXNN`
(R171). The font bytes (R63) stand in Machine/Font.lean. -/

namespace Sys2Proof.Config

/-- `MEMSIZE` (R5): bytes of memory, addresses `0x000..0xFFF`. -/
@[simp] abbrev memSize : Nat := 4096

/-- `PROG_START` (R5): where a program image is loaded, and the reset value of `PC` (R292). -/
@[simp] abbrev progStart : Nat := 0x200

/-- `PROG_MAX` (R5): the longest program image. -/
@[simp] abbrev progMax : Nat := 3584

/-- `FB_W` (R5): pixels in a row of the frame buffer. -/
@[simp] abbrev fbWidth : Nat := 64

/-- `FB_CELLS` (R5): cells of the frame buffer, indices `0..2047`. -/
@[simp] abbrev fbCells : Nat := 2048

/-- `STACK_DEPTH` (R5): entries of the call stack. -/
@[simp] abbrev stackDepth : Nat := 16

/-- The random source (R171, D15): the `n`-th value it supplies, counting from 0. It has no body: the spec puts it
"under no law", so nothing in Lean can evaluate it, and a theorem holds for every value (log entry 1, DESIGN CHOICE). -/
opaque random : Nat → Byte

end Sys2Proof.Config
end

