-- ==== Sys2Proof/Machine/State.lean ====
section
/-! DEFINITION. The state of the machine (R20 to R36), the outcomes of a step, and the state after reset (R45). -/

namespace Sys2Proof.Machine

/-- The values of the 3-bit register `FAULT` (R34), under the names of R252. -/
inductive FaultCode where
  | noFault          -- 0 NONE
  | fetchRange       -- 1 FETCH_RANGE
  | memRange         -- 2 MEM_RANGE
  | stackOverflow    -- 3 STACK_OVERFLOW
  | stackUnderflow   -- 4 STACK_UNDERFLOW
  | fbRange          -- 5 FB_RANGE
  | keyRange         -- 6 KEY_RANGE
  | valueRange       -- 7 VALUE_RANGE
deriving DecidableEq, Repr

/-- `MEM` (R35, R60) as (address, byte) pairs, strictly rising by address; an address not listed holds its byte of
reset (R45). The form is `Memory.wf`. -/
abbrev Memory := List Host.Cell

/-- `FB` (R36): 32 rows of 64 one-bit cells; cell (cx, cy), of linear index `cx + cy*64`, is bit cx of row cy. -/
abbrev FrameBuffer := Vector (BitVec 64) 32

/-- Everything the spec gives the machine, and two counts of the model's own (`beeps`, `draws`). -/
structure State where
  /-- `V[0..15]`, R20; `V[0xF]` is `VF`, R27. -/
  v      : Vector Word 16
  /-- `I`, R28. -/
  i      : Word
  /-- `PC`, R24. -/
  pc     : Word
  /-- `SP`, R29: the number of occupied stack entries, 0 to 16; its values 17 to 31 "are never stored". -/
  sp     : Fin 17
  /-- `STACK[0..15]`, R30. -/
  stack  : Vector Word 16
  /-- `DT`, R31. -/
  dt     : Word
  /-- `ST`, R32. -/
  st     : Word
  /-- `KEYS[0..15]`, R33: `true` is pressed. -/
  keys   : Vector Bool 16
  /-- `FAULT`, R34. -/
  fault  : FaultCode
  /-- `MEM`, R35. -/
  mem    : Memory
  /-- `FB`, R36. -/
  fb     : FrameBuffer
  /-- The model's own: how many `Beep()` events (R128) have been emitted. Log entry 2. -/
  beeps  : Nat
  /-- The model's own: how many random values (R171) have been consumed. Log entry 1. -/
  draws  : Nat
deriving DecidableEq, Repr

/-- There is no way for a step to stop the model with a fault, so this type has no constructor: the spec's own fault
(R251) is a next state, in which `FAULT` holds the code, and the halted machine goes on doing nothing (R121). -/
inductive Fault where
deriving DecidableEq, Repr

/-- Why the model gives no next state. -/
inductive Refusal where
  /-- An instruction without a meaning. No arm of `exec` raises it: all 34 have one. Safe. -/
  | notModelled (mnemonic : String)
  /-- Raised by the transaction `LOAD` alone (never by a step): a second `LOAD`, or one after the first `CYCLE`, is
  outside the interface (R294 (d), U6). Safe. -/
  | loadOutsideBoot
  /-- Raised by the transaction `LOAD` alone (never by a step): an image of more than 3584 bytes is outside the
  interface (R294 (a), U14). Safe. -/
  | imageTooLong
deriving DecidableEq, Repr

/-- The outcome of a step and of a meaning. -/
abbrev Result := Host.Outcome State Fault Refusal

/-- The state after `RESET` (R45, R290). `mem` lists nothing: an unlisted address holds its byte of reset. -/
def State.reset : State where
  v      := Vector.replicate 16 0
  i      := 0
  pc     := BitVec.ofNat 16 Config.progStart
  sp     := 0
  stack  := Vector.replicate 16 0
  dt     := 0
  st     := 0
  keys   := Vector.replicate 16 false
  fault  := .noFault
  mem    := []
  fb     := Vector.replicate 32 0
  beeps  := 0
  draws  := 0

end Sys2Proof.Machine
end

