-- ==== Sys2Proof/Machine/Ops.lean ====
section
/-! DEFINITION. The named operations over memory, frame buffer, registers and stack, the taking of a fault, and the
three endings of a handler (R9, R124). -/

namespace Sys2Proof.Machine

/-! ### Memory -/

/-- What an address holds until it is written: the font from `0x000` to `0x04F`, then `0x00` (R45, R61, D12). -/
def initialByte (a : Nat) : Byte := font.getD a 0

/-- The byte `MEM[a]`, for an address of the memory. -/
def Memory.get : Memory → Nat → Byte
  | [], a          => initialByte a
  | (a', b) :: m, a => if a' = a then b else Memory.get m a

/-- `MEM[a] <- b`, for an address of the memory, in the canonical form. -/
def Memory.set : Memory → Nat → Byte → Memory
  | [], a, b => if b = initialByte a then [] else [(a, b)]
  | (a', b') :: m, a, b =>
    if a' < a then (a', b') :: Memory.set m a b
    else if a' = a then (if b = initialByte a then m else (a, b) :: m)
    else (if b = initialByte a then (a', b') :: m else (a, b) :: (a', b') :: m)

/-- The canonical form: addresses strictly rising and within `0x000..0xFFF`, no entry equal to the byte of reset. -/
def Memory.wf : Memory → Bool
  | []          => true
  | (a, b) :: m => decide (a < Config.memSize) && (b != initialByte a) && m.all (fun c => decide (a < c.1)) && Memory.wf m

/-- `MemRead(a, 1)` (R67): `none` is the case `a > 0xFFF`, for which the caller raises `MEM_RANGE`. -/
def Memory.read (m : Memory) (a : Nat) : Option Byte :=
  if a < Config.memSize then some (Memory.get m a) else none

/-- `MemWrite(a, 1, b)` (R67): `none` is the case `a > 0xFFF`, for which the caller raises `MEM_RANGE`. -/
def Memory.write (m : Memory) (a : Nat) (b : Byte) : Option Memory :=
  if a < Config.memSize then some (Memory.set m a b) else none

/-- Reads `n` bytes at ascending addresses from `a` (R65, R68): `none` if any of them is above `0xFFF`. -/
def Memory.loadBytes (m : Memory) : Nat → Nat → Option (List Byte)
  | _, 0     => some []
  | a, n + 1 =>
    match Memory.read m a, Memory.loadBytes m (a + 1) n with
    | some b, some bs => some (b :: bs)
    | _, _            => none

/-- Writes bytes at ascending addresses from `a` (R65, R68): `none` if any of them is above `0xFFF`. -/
def Memory.storeBytes : Memory → Nat → List Byte → Option Memory
  | m, _, []      => some m
  | m, a, b :: bs =>
    match Memory.write m a b with
    | some m' => Memory.storeBytes m' (a + 1) bs
    | none    => none

/-! ### Frame buffer -/

/-- `FbRead(k)` (R9, R212), used with `k <= 2047`. -/
def FrameBuffer.read (fb : FrameBuffer) (k : Nat) : Bool :=
  match fb[k / Config.fbWidth]? with
  | some row => row.getLsbD (k % Config.fbWidth)
  | none     => false

/-- One row with its cell `cx` set to `p`. -/
def setRowBit (row : BitVec 64) (cx : Nat) (p : Bool) : BitVec 64 :=
  if p then row ||| BitVec.twoPow 64 cx else row &&& ~~~ BitVec.twoPow 64 cx

/-- `FbWrite(k, p)` (R9, R212), used with `k <= 2047`. -/
def FrameBuffer.write (fb : FrameBuffer) (k : Nat) (p : Bool) : FrameBuffer :=
  if h : k / Config.fbWidth < 32 then
    fb.set (k / Config.fbWidth) (setRowBit fb[k / Config.fbWidth] (k % Config.fbWidth) p)
  else fb

/-- Every cell 0 (R216). -/
def FrameBuffer.clear : FrameBuffer := Vector.replicate 32 0

/-! ### Registers -/

/-- `V[k]` (R9): every index names a register (R21), none is hard-wired (R22). -/
def State.getV (s : State) (k : Reg) : Word := s.v[k.toNat]

/-- `V[k] <- w` (R9). -/
def State.setV (s : State) (k : Reg) (w : Word) : State := { s with v := s.v.set k.toNat w }

/-- `I <- w`. -/
def State.setI (s : State) (w : Word) : State := { s with i := w }

/-- `PC <- t`. -/
def State.setPc (s : State) (t : Word) : State := { s with pc := t }

/-- `DT <- w`. -/
def State.setDt (s : State) (w : Word) : State := { s with dt := w }

/-- `ST <- w`. -/
def State.setSt (s : State) (w : Word) : State := { s with st := w }

/-- The memory replaced. -/
def State.setMem (s : State) (m : Memory) : State := { s with mem := m }

/-- The frame buffer replaced. -/
def State.setFb (s : State) (fb : FrameBuffer) : State := { s with fb := fb }

/-- One random value consumed (R171). -/
def State.countDraw (s : State) : State := { s with draws := s.draws + 1 }

/-- `STACK[SP] <- w; SP <- SP + 1`, or `none` when `SP = 16` (R29, R142). -/
def State.push (s : State) (w : Word) : Option State :=
  if h : s.sp.val < 16 then
    some { s with stack := s.stack.set s.sp.val w, sp := ⟨s.sp.val + 1, by omega⟩ }
  else none

/-- `SP <- SP - 1`, with `STACK[SP]`, or `none` when `SP = 0` (R29, R140). The entry is not erased. -/
def State.pop (s : State) : Option (Word × State) :=
  if h : 0 < s.sp.val then
    some (s.stack[s.sp.val - 1]'(by omega), { s with sp := ⟨s.sp.val - 1, by omega⟩ })
  else none

/-! ### Faults (the machine's one exception) -/

/-- The code of R252, the value of the 3-bit register `FAULT`. -/
def FaultCode.code : FaultCode → BitVec 3
  | .noFault        => 0
  | .fetchRange     => 1
  | .memRange       => 2
  | .stackOverflow  => 3
  | .stackUnderflow => 4
  | .fbRange        => 5
  | .keyRange       => 6
  | .valueRange     => 7

/-- `raise Fault(c)` (R251), given the state at the start of the cycle: every other piece of state keeps its value,
`FAULT <- c`. There is no saved `PC`, no handler and no return: only `RESET` leaves the halted state (R257). -/
def takeFault (c : FaultCode) (s : State) : State := { s with fault := c }

/-! ### How a handler ends (R124) -/

/-- `return advance`: the cycle adds 2 to `PC` as the handler left it (R125). -/
def advance (s : State) : Result := .next (s.setPc (s.pc + 2))

/-- `return stay`: `PC` is left as the handler set it (R125). -/
def stay (s : State) : Result := .next s

/-- `raise Fault(c)`, from the state `s` at the start of the cycle (R251). -/
def raise (c : FaultCode) (s : State) : Result := .next (takeFault c s)

/-- The extra `PC <- PC + 2` of a skip whose condition holds (R126). -/
def skipIf (cond : Bool) (s : State) : State := if cond then s.setPc (s.pc + 2) else s

end Sys2Proof.Machine
end

