-- ==== Sys2Proof/Machine/Cycle.lean ====
section
/-! DEFINITION. The cycle (spec/40, R120 to R132) around the dispatcher `run` of the 34 instructions: halt test, fetch,
decode, handler with `PC` advance, timer decay. Also how a test places an instruction for the fetch. -/

namespace Sys2Proof.Machine

/-- The fetch (R122): the bytes at `PC` and `PC+1` (big-endian, R64), for any parity (R66); `none` when `PC > 0xFFE`. -/
def fetch (s : State) : Option Word :=
  match Memory.read s.mem s.pc.toNat, Memory.read s.mem (s.pc.toNat + 1) with
  | some hi, some lo => some (wordOfBytes hi lo)
  | _, _             => none

/-- `UNRECOGNISED` (R130): "No state change beyond normal PC advance"; the diagnostic is omitted (D21). -/
def execUnrecognised (s : State) : Result := advance s

/-- The delay timer's decay (R127). -/
def decayDelay (s : State) : State := if s.dt = 0 then s else { s with dt := s.dt - 1 }

/-- The sound timer's decay, with one `Beep()` when it passes from 1 to 0 (R128). -/
def decaySound (s : State) : State :=
  if s.st = 0 then s
  else { s with st := s.st - 1, beeps := if s.st = 1 then s.beeps + 1 else s.beeps }

/-- The end of a completed cycle (R129). -/
def decay (s : State) : State := decaySound (decayDelay s)

/-- After the handler: the timers decay, unless the handler raised a fault, which abandons the cycle (R131). -/
def finishCycle : Result → Result
  | .next s    => if s.fault = .noFault then .next (decay s) else .next s
  | .fault r   => .fault r
  | .refused r => .refused r

/-- One cycle (R129). A halted core does nothing (R121). -/
def cycle (run : Instr → State → Result) (s : State) : Result :=
  if s.fault = .noFault then
    match fetch s with
    | none    => raise .fetchRange s
    | some op =>
      match decode op with
      | .instr i        => finishCycle (run i s)
      | .unrecognised _ => finishCycle (execUnrecognised s)
  else .next s

/-- The state with the two bytes of a word at `PC` and `PC+1`, as a `LOAD` (R272) would have left them there. Where
`PC > 0xFFE` no word can be fetched, and the memory is left alone. -/
def placeWord (s : State) (op : Word) : State :=
  match Memory.storeBytes s.mem s.pc.toNat [highByte op, lowByte op] with
  | some m => s.setMem m
  | none   => s

end Sys2Proof.Machine
end

