-- ==== Sys2Proof/Machine/Flags.lean ====
section
/-! DEFINITION. The one flag, `VF = V[0xF]`, and every rule that computes it (R27, R172, R173). -/

namespace Sys2Proof.Machine

/-- The index of `VF` (R27). -/
def flagReg : Reg := 0xF

/-- A flag is "always written as the full 16-bit number 0 or 1" (R27). -/
def flagWord (b : Bool) : Word := if b then 1 else 0

/-- The carry of `8XY4` (R166): the unbounded sum exceeds 65535. -/
def carryOut (a b : Word) : Bool := decide (a.toNat + b.toNat > 65535)

/-- The flag of `8XY5` and `8XY7` (R167, R169): 1 unless the unbounded difference is negative. -/
def noBorrow (a b : Word) : Bool := !decide ((a.toNat : Int) - b.toNat < 0)

/-- The flag of `8XY6` (R168): the bit shifted out on the right. -/
def lowBit (a : Word) : Bool := a.getLsbD 0

/-- The flag of `8XYE` (R170): the bit shifted out on the left, bit 15. -/
def highBit (a : Word) : Bool := a.getLsbD 15

/-- Result first, flag second (R173): `V[x] <- r`, then `V[0xF] <- 0 or 1`. -/
def State.setResult (s : State) (x : Reg) (r : Word) (flag : Bool) : State :=
  (s.setV x r).setV flagReg (flagWord flag)

end Sys2Proof.Machine
end

