-- ==== Sys2Proof/Machine/Operands.lean ====
section
/-! DEFINITION. The operand forms: immediates (R92), register lists (R68), the keypad (R33), and a sprite's cells
(R211, R212). -/

namespace Sys2Proof.Machine

/-- `NN` as the number `0..255`, zero-extended (R92). -/
def immWord (nn : Byte) : Word := nn.setWidth 16

/-- `NNN` as the number `0..4095`, zero-extended (R92). -/
def addrWord (nnn : Addr12) : Word := nnn.setWidth 16

/-- A loaded byte as a register value, zero-extended (R196). -/
def byteWord (b : Byte) : Word := b.setWidth 16

/-- The low byte of a register. A register above 255 is never stored (R194). -/
def wordByte (w : Word) : Byte := w.setWidth 8

/-- The registers `V[0..x]` in order (R68). -/
def State.regsUpTo (s : State) (x : Reg) : List Word := s.v.toList.take (x.toNat + 1)

/-- `V[k] <- bytes[k]`, zero-extended, for every index of the list; the registers above it keep their values (R195). -/
def State.loadRegs (s : State) (bytes : List Byte) : State :=
  { s with v := Vector.ofFn fun k : Fin 16 =>
      match bytes[k.val]? with
      | some b => byteWord b
      | none   => s.v[k.val] }

/-- The three decimal digits that `FX33` stores, for a value of at most 999 (R193). -/
def decimalDigits (a : Nat) : List Byte :=
  [BitVec.ofNat 8 (a / 100), BitVec.ofNat 8 (a / 10 % 10), BitVec.ofNat 8 (a % 10)]

/-- The latch of the key whose code is the whole 16-bit value `w`: `none` above 15 (R230). -/
def State.keyOf (s : State) (w : Word) : Option Bool := s.keys[w.toNat]?

/-- The least key code that is pressed, if any is (R232). -/
def State.lowestKey (s : State) : Option Nat := s.keys.toList.findIdx? id

/-! ### A sprite (R210 to R214, R217) -/

/-- Pixel `col` of a row byte: bit 7 is the leftmost (R211). -/
def pixel (b : Byte) (col : Nat) : Bool := b.getLsbD (7 - col)

/-- The linear index of a target cell, on unbounded integers, not reduced (R212, C5). -/
def targetCell (x y : Word) (row col : Nat) : Nat := (x.toNat + col) + (y.toNat + row) * Config.fbWidth

/-- The `8*N` target cells of a sprite with their pixels, row by row. -/
def spriteCells (x y : Word) (rows : List Byte) : List (Nat × Bool) :=
  rows.zipIdx.flatMap fun r => (List.range 8).map fun col => (targetCell x y r.2 col, pixel r.1 col)

/-- No target cell of a sprite of `n` rows is above 2047 (R217). -/
def spriteFits (x y : Word) (n : Nat) : Bool :=
  decide (n = 0 ∨ (x.toNat + 7) + (y.toNat + n - 1) * Config.fbWidth < Config.fbCells)

/-- Some pixel is 1 over a cell that holds 1 before the draw (R214). -/
def collides (fb : FrameBuffer) (cells : List (Nat × Bool)) : Bool :=
  cells.any fun c => c.2 && FrameBuffer.read fb c.1

/-- Every target cell becomes `cell XOR pixel` (R213). -/
def drawCells (fb : FrameBuffer) (cells : List (Nat × Bool)) : FrameBuffer :=
  cells.foldl (fun f c => FrameBuffer.write f c.1 (FrameBuffer.read f c.1 ^^ c.2)) fb

end Sys2Proof.Machine
end

