-- ==== Sys2Proof/Machine/Draw.lean ====
section
/-! DEFINITION. The frame-buffer sprite engine (spec/44, R210 to R219). -/

namespace Sys2Proof.Machine

/-- `00E0` (R216): `VF` is not touched. -/
def execCls (s : State) : Result := advance (s.setFb FrameBuffer.clear)

/-- `DXYN` (R215): all sprite bytes first, coordinates before `VF` is written, collision over the old cells (R214);
`N = 0` reads and draws nothing and sets `VF` to 0. `I` is unchanged. -/
def execDrw (x y : Reg) (n : Nibble) (s : State) : Result :=
  match Memory.loadBytes s.mem s.i.toNat n.toNat with
  | none      => raise .memRange s
  | some rows =>
    if spriteFits (s.getV x) (s.getV y) n.toNat then
      let cells := spriteCells (s.getV x) (s.getV y) rows
      advance ((s.setFb (drawCells s.fb cells)).setV flagReg (flagWord (collides s.fb cells)))
    else raise .fbRange s

end Sys2Proof.Machine
end

