-- ==== Sys2Proof/Machine/Flow.lean ====
section
/-! DEFINITION. Control transfer: return, jumps, call, skips on registers (spec/41, R140 to R148). `PC` inside a
meaning is the address of the instruction itself (R24). -/

namespace Sys2Proof.Machine

/-- `00EE` (R140): the popped address is a call's own, and `advance` adds 2 (C2). -/
def execRet (s : State) : Result :=
  match s.pop with
  | none         => raise .stackUnderflow s
  | some (t, s') => advance (s'.setPc t)

/-- `1NNN` (R141). -/
def execJp (nnn : Addr12) (s : State) : Result := stay (s.setPc (addrWord nnn))

/-- `2NNN` (R142): pushes the address of the call itself. -/
def execCall (nnn : Addr12) (s : State) : Result :=
  match s.push s.pc with
  | none    => raise .stackOverflow s
  | some s' => stay (s'.setPc (addrWord nnn))

/-- `3XNN` (R143): the full 16-bit register is compared. -/
def execSeImm (x : Reg) (nn : Byte) (s : State) : Result := advance (skipIf (s.getV x == immWord nn) s)

/-- `4XNN` (R144). -/
def execSneImm (x : Reg) (nn : Byte) (s : State) : Result := advance (skipIf (s.getV x != immWord nn) s)

/-- `5XY0` (R145). -/
def execSeReg (x y : Reg) (s : State) : Result := advance (skipIf (s.getV x == s.getV y) s)

/-- `9XY0` (R146). -/
def execSneReg (x y : Reg) (s : State) : Result := advance (skipIf (s.getV x != s.getV y) s)

/-- `BNNN` (R147): always `V[0]`, and a sum above 16 bits is a fault, not a wrap (D8). -/
def execJpV0 (nnn : Addr12) (s : State) : Result :=
  let t := nnn.toNat + (s.getV 0).toNat
  if t > 0xFFFF then raise .valueRange s else stay (s.setPc (BitVec.ofNat 16 t))

end Sys2Proof.Machine
end

