-- ==== Sys2Proof/Machine/Index.lean ====
section
/-! DEFINITION. The index register and the memory instructions (spec/43, R190 to R196). Where a rule checks two faults,
the memory range comes first (R255); nothing of the state is changed by a fault (R251), so a checked access made
before the value check leaves no trace (R10). -/

namespace Sys2Proof.Machine

/-- `ANNN` (R190). -/
def execLdI (nnn : Addr12) (s : State) : Result := advance (s.setI (addrWord nnn))

/-- `FX1E` (R191): modulo 65536, no flag. -/
def execAddIVx (x : Reg) (s : State) : Result := advance (s.setI (s.i + s.getV x))

/-- `FX29` (R192): the whole register times 5, and a product above 16 bits is a fault, not a wrap (D8). -/
def execLdFVx (x : Reg) (s : State) : Result :=
  let p := (s.getV x).toNat * 5
  if p > 65535 then raise .valueRange s else advance (s.setI (BitVec.ofNat 16 p))

/-- `FX33` (R193): `I` is unchanged. -/
def execLdBVx (x : Reg) (s : State) : Result :=
  let a := (s.getV x).toNat
  match Memory.storeBytes s.mem s.i.toNat (decimalDigits a) with
  | none   => raise .memRange s
  | some m => if a > 999 then raise .valueRange s else advance (s.setMem m)

/-- `FX55` (R194): every stored register must fit a byte; then `I <- I + X + 1`. -/
def execLdMemVx (x : Reg) (s : State) : Result :=
  match Memory.storeBytes s.mem s.i.toNat ((s.regsUpTo x).map wordByte) with
  | none   => raise .memRange s
  | some m =>
    if (s.regsUpTo x).any (fun w => decide (w.toNat > 255)) then raise .valueRange s
    else advance ((s.setMem m).setI (BitVec.ofNat 16 (s.i.toNat + x.toNat + 1)))

/-- `FX65` (R195): registers above `X` are unchanged; then `I <- I + X + 1`. -/
def execLdVxMem (x : Reg) (s : State) : Result :=
  match Memory.loadBytes s.mem s.i.toNat (x.toNat + 1) with
  | none       => raise .memRange s
  | some bytes => advance ((s.loadRegs bytes).setI (BitVec.ofNat 16 (s.i.toNat + x.toNat + 1)))

end Sys2Proof.Machine
end

