-- ==== Sys2Proof/Machine/KeysTimers.lean ====
section
/-! DEFINITION. Keypad and timer instructions (spec/45, R230 to R237). The decay of the timers is the cycle's
(Machine/Cycle.lean). -/

namespace Sys2Proof.Machine

/-- `EX9E` (R230): a register above 15 names no key (D7). -/
def execSkp (x : Reg) (s : State) : Result :=
  match s.keyOf (s.getV x) with
  | none      => raise .keyRange s
  | some down => advance (skipIf down s)

/-- `EXA1` (R231). -/
def execSknp (x : Reg) (s : State) : Result :=
  match s.keyOf (s.getV x) with
  | none      => raise .keyRange s
  | some down => advance (skipIf (!down) s)

/-- `FX07` (R233): the value before this cycle's decay. -/
def execLdVxDt (x : Reg) (s : State) : Result := advance (s.setV x s.dt)

/-- `FX0A` (R232): with no key pressed the handler returns `stay`, and the instruction is executed again by the next
cycle; else the least pressed code is stored. -/
def execLdVxK (x : Reg) (s : State) : Result :=
  match s.lowestKey with
  | none   => stay s
  | some k => advance (s.setV x (BitVec.ofNat 16 k))

/-- `FX15` (R234). -/
def execLdDtVx (x : Reg) (s : State) : Result := advance (s.setDt (s.getV x))

/-- `FX18` (R235). -/
def execLdStVx (x : Reg) (s : State) : Result := advance (s.setSt (s.getV x))

end Sys2Proof.Machine
end

