-- ==== Sys2Proof/Machine/Math.lean ====
section
/-! DEFINITION. Register loads, the ALU (family 8) and the random instruction (spec/42, R160 to R173). -/

namespace Sys2Proof.Machine

/-- `6XNN` (R160). -/
def execLdImm (x : Reg) (nn : Byte) (s : State) : Result := advance (s.setV x (immWord nn))

/-- `7XNN` (R161): modulo 65536, no flag. -/
def execAddImm (x : Reg) (nn : Byte) (s : State) : Result := advance (s.setV x (s.getV x + immWord nn))

/-- `8XY0` (R162). -/
def execLdReg (x y : Reg) (s : State) : Result := advance (s.setV x (s.getV y))

/-- `8XY1` (R163): `VF` untouched. -/
def execOrReg (x y : Reg) (s : State) : Result := advance (s.setV x (s.getV x ||| s.getV y))

/-- `8XY2` (R164): `VF` untouched. -/
def execAndReg (x y : Reg) (s : State) : Result := advance (s.setV x (s.getV x &&& s.getV y))

/-- `8XY3` (R165): `VF` untouched. -/
def execXorReg (x y : Reg) (s : State) : Result := advance (s.setV x (s.getV x ^^^ s.getV y))

/-- `8XY4` (R166). -/
def execAddReg (x y : Reg) (s : State) : Result :=
  advance (s.setResult x (s.getV x + s.getV y) (carryOut (s.getV x) (s.getV y)))

/-- `8XY5` (R167). -/
def execSubReg (x y : Reg) (s : State) : Result :=
  advance (s.setResult x (s.getV x - s.getV y) (noBorrow (s.getV x) (s.getV y)))

/-- `8XY6` (R168): `V[y]` is neither read nor written. -/
def execShr (x _y : Reg) (s : State) : Result :=
  advance (s.setResult x (s.getV x >>> 1) (lowBit (s.getV x)))

/-- `8XY7` (R169). -/
def execSubnReg (x y : Reg) (s : State) : Result :=
  advance (s.setResult x (s.getV y - s.getV x) (noBorrow (s.getV y) (s.getV x)))

/-- `8XYE` (R170): `V[y]` is neither read nor written. -/
def execShl (x _y : Reg) (s : State) : Result :=
  advance (s.setResult x (s.getV x <<< 1) (highBit (s.getV x)))

/-- `CXNN` (R171) when the random source presents `r`: exactly one value is consumed, also with `NN = 0`. -/
def rndWith (r : Byte) (x : Reg) (nn : Byte) (s : State) : Result :=
  advance ((s.setV x (byteWord (r &&& nn))).countDraw)

/-- `CXNN` (R171): the value presented is the next free value of the source (log entry 1). -/
def execRnd (x : Reg) (nn : Byte) (s : State) : Result := rndWith (Config.random s.draws) x nn s

end Sys2Proof.Machine
end

