-- ==== Sys2Proof/Machine/Step.lean ====
section
/-! DEFINITION. One step of the machine is one `CYCLE` (R120, R275). -/

namespace Sys2Proof.Machine

/-- One cycle of the core (R129). -/
def step (s : State) : Host.Outcome State Fault Refusal := cycle exec s

/-- The state in which the next step fetches the word whose bits are `w` (numbered as the opcode table numbers them).
It stands for the host's `LOAD` (log entry 8). -/
def State.withFetchWord (s : State) (nbits w : Nat) : State := placeWord s (BitVec.ofNat 16 (w % 2 ^ nbits))

end Sys2Proof.Machine
end

