-- ==== Sys2Proof/Machine/Transactions.lean ====
section
/-! DEFINITION. The host's transactions (R270 to R277), which happen between cycles only (R73). `step` is `CYCLE`; the
others change the state here. The order the host owes (R293, R294) is kept in a `Phase` beside the state. -/

namespace Sys2Proof.Machine

/-- How far the boot sequence has gone (R293): it decides whether `LOAD` is inside the interface (R294 (d)). -/
inductive Phase where
  | fresh     -- after RESET: LOAD is allowed
  | loaded    -- after LOAD, before the first CYCLE
  | running   -- after the first CYCLE
deriving DecidableEq, Repr

/-- The core with its boot phase. -/
structure Session where
  core  : State
  phase : Phase
deriving DecidableEq, Repr

/-- What `READ` selects (R276, R219). Each index is exactly as wide as the array it selects from. -/
inductive Selector where
  | v (k : Reg)
  | i
  | pc
  | sp
  | stack (k : Nibble)
  | dt
  | st
  | keys (k : Nibble)
  | fault
  | mem (a : Addr12)
  | fb (k : BitVec 11)
deriving DecidableEq, Repr

/-- The six transactions of R270. A key code above 15 cannot be written down (R273, D18). -/
inductive Transaction where
  | reset
  | load (image : List Byte)
  | press (k : Nibble)
  | release (k : Nibble)
  | cycle
  | read (sel : Selector)
deriving DecidableEq, Repr

/-- The machine as construction leaves it (R271). -/
def bootSession : Session := ⟨State.reset, .fresh⟩

/-- `RESET` (R271, R290): every piece of the core's state to its value of R45. The two counts are of what the outside
world has seen and supplied, so they go on: a random source is not part of the core (R171). -/
def State.resetCore (s : State) : State := { State.reset with beeps := s.beeps, draws := s.draws }

/-- `LOAD(image)` (R272, R294): `MEM[0x200 + k] <- image[k]` and nothing else; `none` for an image that does not fit
below `0x1000`, which is one that is not `imageWf`. -/
def State.load (s : State) (image : List Byte) : Option State :=
  (Memory.storeBytes s.mem Config.progStart image).map s.setMem

/-- `PRESS(k)` (R273). -/
def State.press (s : State) (k : Nibble) : State := { s with keys := s.keys.set k.toNat true }

/-- `RELEASE(k)` (R274). -/
def State.release (s : State) (k : Nibble) : State := { s with keys := s.keys.set k.toNat false }

/-- `READ` (R276): the selected state as a number, with no side effect. -/
def State.observe (s : State) : Selector → Nat
  | .v k     => (s.getV k).toNat
  | .i       => s.i.toNat
  | .pc      => s.pc.toNat
  | .sp      => s.sp.val
  | .stack k => s.stack[k.toNat].toNat
  | .dt      => s.dt.toNat
  | .st      => s.st.toNat
  | .keys k  => if s.keys[k.toNat] then 1 else 0
  | .fault   => s.fault.code.toNat
  | .mem a   => (Memory.get s.mem a.toNat).toNat
  | .fb k    => if FrameBuffer.read s.fb k.toNat then 1 else 0

/-- One transaction (R270). A `LOAD` outside the interface is refused by name (U6, U14). -/
def transact (t : Transaction) (ss : Session) : Host.Outcome Session Fault Refusal :=
  match t with
  | .reset     => .next ⟨ss.core.resetCore, .fresh⟩
  | .load image =>
    if ss.phase = .fresh then
      match ss.core.load image with
      | some s => .next ⟨s, .loaded⟩
      | none   => .refused .imageTooLong
    else .refused .loadOutsideBoot
  | .press k   => .next { ss with core := ss.core.press k }
  | .release k => .next { ss with core := ss.core.release k }
  | .cycle     =>
    match step ss.core with
    | .next s    => .next ⟨s, .running⟩
    | .fault r   => .fault r
    | .refused r => .refused r
  | .read _    => .next ss

/-- A sequence of transactions, one after the other (R270), stopping at the first that is refused. -/
def transactAll : List Transaction → Session → Host.Outcome Session Fault Refusal
  | [], ss      => .next ss
  | t :: ts, ss =>
    match transact t ss with
    | .next ss'  => transactAll ts ss'
    | .fault r   => .fault r
    | .refused r => .refused r

end Sys2Proof.Machine
end

