-- ==== Sys2Proof/Safety.lean ====
section
/-! DEFINITION. The terms in which claims are made: a safe state, the invariant, the end of a run, which fault an
instruction raises (R252 to R255), which state an instruction may write (R23, R28 to R33, R68, R70), and frames. -/

namespace Sys2Proof.Machine

/-- No fault recorded: what a claim about a program carries in its postcondition (R257). -/
def State.Safe (s : State) : Prop := s.fault = .noFault

/-- The invariant that every transaction keeps: the memory is in its canonical form, and every stack entry is an
address that was fetched from (R30), so that `RET` cannot carry `PC` past 16 bits (R26). -/
structure State.Inv (s : State) : Prop where
  mem   : Memory.wf s.mem = true
  stack : ∀ k : Fin 16, s.stack[k.val].toNat ≤ 0xFFE

/-- The end of a run that R303 suggests (`END_OF_RUN`, D23, log entry 10): parked on a jump to itself, no fault. -/
def State.parked (s : State) : Bool :=
  decide (s.fault = .noFault) &&
  match fetch s with
  | none    => false
  | some op => decide (decode op = .instr (.jp (s.pc.setWidth 12)) ∧ s.pc.toNat < 4096)

/-- The fault the handler of an instruction raises, by the conditions of R252 and the priority of R255; `noFault`
where it raises none (R253, R254). -/
def faultOf (i : Instr) (s : State) : FaultCode :=
  match i with
  | .ret         => if s.sp.val = 0 then .stackUnderflow else .noFault
  | .call _      => if s.sp.val = 16 then .stackOverflow else .noFault
  | .jpV0 nnn    => if nnn.toNat + (s.getV 0).toNat > 0xFFFF then .valueRange else .noFault
  | .drw x y n   =>
    if n.toNat = 0 then .noFault
    else if s.i.toNat + n.toNat - 1 > 0xFFF then .memRange
    else if ((s.getV x).toNat + 7) + ((s.getV y).toNat + n.toNat - 1) * 64 > 2047 then .fbRange
    else .noFault
  | .skp x       => if (s.getV x).toNat > 15 then .keyRange else .noFault
  | .sknp x      => if (s.getV x).toNat > 15 then .keyRange else .noFault
  | .ldFVx x     => if (s.getV x).toNat * 5 > 0xFFFF then .valueRange else .noFault
  | .ldBVx x     =>
    if s.i.toNat + 2 > 0xFFF then .memRange
    else if (s.getV x).toNat > 999 then .valueRange else .noFault
  | .ldMemVx x   =>
    if s.i.toNat + x.toNat > 0xFFF then .memRange
    else if ∃ k : Reg, k ≤ x ∧ (s.getV k).toNat > 255 then .valueRange else .noFault
  | .ldVxMem x   => if s.i.toNat + x.toNat > 0xFFF then .memRange else .noFault
  | .cls | .jp _ | .seImm _ _ | .sneImm _ _ | .seReg _ _ | .ldImm _ _ | .addImm _ _ | .ldReg _ _ | .orReg _ _
  | .andReg _ _ | .xorReg _ _ | .addReg _ _ | .subReg _ _ | .shr _ _ | .subnReg _ _ | .shl _ _ | .sneReg _ _
  | .ldI _ | .rnd _ _ | .ldVxDt _ | .ldVxK _ | .ldDtVx _ | .ldStVx _ | .addIVx _ => .noFault

/-- Whether an instruction may write register `k`, by R23. -/
def mayWriteV (i : Instr) (k : Reg) : Bool :=
  match i with
  | .ldImm x _ | .addImm x _ | .ldReg x _ | .orReg x _ | .andReg x _ | .xorReg x _ | .rnd x _ | .ldVxDt x | .ldVxK x =>
    k == x
  | .addReg x _ | .subReg x _ | .shr x _ | .subnReg x _ | .shl x _ => k == x || k == 0xF
  | .drw _ _ _   => k == 0xF
  | .ldVxMem x   => decide (k ≤ x)
  | .cls | .ret | .jp _ | .call _ | .seImm _ _ | .sneImm _ _ | .seReg _ _ | .sneReg _ _ | .ldI _ | .jpV0 _ | .skp _
  | .sknp _ | .ldDtVx _ | .ldStVx _ | .addIVx _ | .ldFVx _ | .ldBVx _ | .ldMemVx _ => false

/-- The addresses an instruction stores to, by R68, from the state before it. -/
def storedAddresses (i : Instr) (s : State) : List Nat :=
  match i with
  | .ldBVx _   => [s.i.toNat, s.i.toNat + 1, s.i.toNat + 2]
  | .ldMemVx x => (List.range (x.toNat + 1)).map (s.i.toNat + ·)
  | .cls | .ret | .jp _ | .call _ | .seImm _ _ | .sneImm _ _ | .seReg _ _ | .ldImm _ _ | .addImm _ _ | .ldReg _ _
  | .orReg _ _ | .andReg _ _ | .xorReg _ _ | .addReg _ _ | .subReg _ _ | .shr _ _ | .subnReg _ _ | .shl _ _ | .sneReg _ _
  | .ldI _ | .jpV0 _ | .rnd _ _ | .drw _ _ _ | .skp _ | .sknp _ | .ldVxDt _ | .ldVxK _ | .ldDtVx _ | .ldStVx _
  | .addIVx _ | .ldFVx _ | .ldVxMem _ => []

/-- Where `PC` goes, as an unbounded number, by R25, for an instruction that raises no fault. -/
def pcAfter (i : Instr) (s : State) : Nat :=
  let skip (c : Bool) := if c then s.pc.toNat + 4 else s.pc.toNat + 2
  match i with
  | .ret         => if h : 0 < s.sp.val then (s.stack[s.sp.val - 1]'(by omega)).toNat + 2 else s.pc.toNat
  | .jp nnn      => nnn.toNat
  | .call nnn    => nnn.toNat
  | .jpV0 nnn    => nnn.toNat + (s.getV 0).toNat
  | .seImm x nn  => skip (decide ((s.getV x).toNat = nn.toNat))
  | .sneImm x nn => skip (decide ((s.getV x).toNat ≠ nn.toNat))
  | .seReg x y   => skip (decide (s.getV x = s.getV y))
  | .sneReg x y  => skip (decide (s.getV x ≠ s.getV y))
  | .skp x       => skip (s.keys[(s.getV x).toNat]? == some true)
  | .sknp x      => skip (s.keys[(s.getV x).toNat]? == some false)
  | .ldVxK _     => if ∃ k : Fin 16, s.keys[k.val] = true then s.pc.toNat + 2 else s.pc.toNat
  | .cls | .ldImm _ _ | .addImm _ _ | .ldReg _ _ | .orReg _ _ | .andReg _ _ | .xorReg _ _ | .addReg _ _ | .subReg _ _
  | .shr _ _ | .subnReg _ _ | .shl _ _ | .ldI _ | .rnd _ _ | .drw _ _ _ | .ldVxDt _ | .ldDtVx _ | .ldStVx _ | .addIVx _
  | .ldFVx _ | .ldBVx _ | .ldMemVx _ | .ldVxMem _ => s.pc.toNat + 2

/-- What a completing instruction may change beside `PC`. Everything not named here is named as unchanged by `Frame`. -/
structure Touched where
  v     : List Reg := []     -- general registers
  i     : Bool := false
  sp    : Bool := false
  stack : List Nat := []     -- stack entries
  dt    : Bool := false
  st    : Bool := false
  mem   : List Nat := []     -- addresses
  fb    : List Nat := []     -- frame-buffer cells
  draws : Bool := false

/-- From `s` to `t` nothing changes but `PC` and what `c` names: registers, flag, index, stack, timers, keys, `FAULT`,
every byte of memory and every cell of the frame buffer, and the two counts. -/
structure Frame (c : Touched) (s t : State) : Prop where
  v     : ∀ k : Reg, k ∉ c.v → t.getV k = s.getV k
  i     : c.i = false → t.i = s.i
  sp    : c.sp = false → t.sp = s.sp
  stack : ∀ k : Fin 16, k.val ∉ c.stack → t.stack[k.val] = s.stack[k.val]
  dt    : c.dt = false → t.dt = s.dt
  st    : c.st = false → t.st = s.st
  keys  : t.keys = s.keys
  fault : t.fault = s.fault
  mem   : ∀ a : Nat, a ∉ c.mem → Memory.read t.mem a = Memory.read s.mem a
  fb    : ∀ k : Nat, k < 2048 → k ∉ c.fb → FrameBuffer.read t.fb k = FrameBuffer.read s.fb k
  beeps : t.beeps = s.beeps
  draws : c.draws = false → t.draws = s.draws

/-- The two bytes at `PC` decode to the instruction `i` (R122, R123). -/
def AtPc (i : Instr) (s : State) : Prop :=
  ∃ hi lo, Memory.read s.mem s.pc.toNat = some hi ∧ Memory.read s.mem (s.pc.toNat + 1) = some lo ∧
    decodeBytes hi lo = .instr i

/-- `PC` moves on by `n`, without wrapping. A handler runs with `PC` within `0x000..0xFFE` only (R122), so nothing is
claimed for another `PC`. -/
def PcMoves (n : Nat) (s t : State) : Prop := s.pc.toNat ≤ 0xFFE → t.pc.toNat = s.pc.toNat + n

/-- The instruction raises the fault `c`: nothing of the state changes but `FAULT` (R251). -/
def Raises (c : FaultCode) (i : Instr) (s : State) : Prop := exec i s = .next { s with fault := c }

/-- The frame-buffer indices of an `N`-row sprite at `(x, y)`, by the formula of R212. -/
def spriteArea (x y n : Nat) : List Nat :=
  (List.range n).flatMap fun row => (List.range 8).map fun col => (x + col) + (y + row) * 64

/-- Pixel `col` of sprite row `row`, from the memory at `I` (R211, R215). -/
def spritePixel (s : State) (row col : Nat) : Bool := (Memory.get s.mem (s.i.toNat + row)).getLsbD (7 - col)

end Sys2Proof.Machine
end

