-- ==== Sys2Proof/WellFormed.lean ====
section
/-! DEFINITION. What is well-formed beyond what the types already say. Every term of `Instr` is well-formed: its
operands are exactly as wide as their fields (R21, R92), so no check is left to make on it. Two things carry a check:
what a decoder may call unrecognised (R97, R100), and a program image (R294). -/

namespace Sys2Proof

/-- A decoder's answer is well-formed when the word it calls unrecognised matches no row of R99 (R97, R100). -/
def Decoded.wf : Decoded → Bool
  | .instr _        => true
  | .unrecognised w => !recognised w

/-- A program image fits the program region: at most `PROG_MAX` bytes, odd lengths and the empty image included
(R294 (a), (b), (c)). -/
def imageWf (image : List Byte) : Bool := decide (image.length ≤ Config.progMax)

end Sys2Proof
end

