-- ==== Sys2Proof/Certificates/Slice0/Obligations.lean ====
section
/-! DEFINITION. The statements for the provers. Each docstring names the rules of spec/ it formalises. -/

open Sys2Proof Sys2Proof.Machine

/-! ### Reset and the host's transactions -/

/-- R45: the value of every piece of state after reset. -/
def Obligations.ResetState : Prop :=
  (∀ k : Reg, State.reset.getV k = 0) ∧ State.reset.i = 0 ∧ State.reset.pc = 0x200 ∧ State.reset.sp.val = 0 ∧
  (∀ k : Fin 16, State.reset.stack[k.val] = 0) ∧ State.reset.dt = 0 ∧ State.reset.st = 0 ∧
  (∀ k : Fin 16, State.reset.keys[k.val] = false) ∧ State.reset.fault.code = 0 ∧
  font.length = 80 ∧
  (∀ a : Nat, a < 80 → Memory.read State.reset.mem a = font[a]?) ∧
  (∀ a : Nat, 80 ≤ a → a < 4096 → Memory.read State.reset.mem a = some 0) ∧
  (∀ a : Nat, 4096 ≤ a → Memory.read State.reset.mem a = none) ∧
  (∀ k : Nat, k < 2048 → FrameBuffer.read State.reset.fb k = false)

/-- R271: `RESET` puts every piece of the core's state at its reset value, from any state, halted or not, and discards
a loaded program. That the model's two counts go on is the model's choice (log entries 1 and 2). -/
def Obligations.ResetTransactionRestoresReset : Prop :=
  ∀ ss : Session, ∃ t : State, transact .reset ss = .next ⟨t, .fresh⟩ ∧
    t = { State.reset with beeps := ss.core.beeps, draws := ss.core.draws }

/-- R272, R294: `LOAD` copies the image verbatim to `0x200` up and changes nothing else, `PC` included; odd lengths and
the empty image are accepted; a longer image, a second `LOAD`, and a `LOAD` after a `CYCLE` are outside the interface. -/
def Obligations.LoadCopiesTheImage : Prop :=
  ∀ (s : State) (image : List Byte), Memory.wf s.mem = true →
    (image.length ≤ 3584 → ∃ t : State, transact (.load image) ⟨s, .fresh⟩ = .next ⟨t, .loaded⟩ ∧
      (∀ k : Nat, k < image.length → Memory.read t.mem (0x200 + k) = image[k]?) ∧ t.pc = s.pc ∧
      Frame { mem := (List.range image.length).map (0x200 + ·) } s t) ∧
    (3584 < image.length → transact (.load image) ⟨s, .fresh⟩ = .refused .imageTooLong) ∧
    (∀ p : Phase, p ≠ .fresh → transact (.load image) ⟨s, p⟩ = .refused .loadOutsideBoot)

/-- R273, R274: `PRESS(k)` and `RELEASE(k)` write one latch and nothing else. -/
def Obligations.PressAndReleaseSetOneKey : Prop :=
  ∀ (ss : Session) (k : Nibble), ∃ t u : State,
    transact (.press k) ss = .next ⟨t, ss.phase⟩ ∧ transact (.release k) ss = .next ⟨u, ss.phase⟩ ∧
    t.keys[k.toNat] = true ∧ u.keys[k.toNat] = false ∧
    (∀ j : Fin 16, j.val ≠ k.toNat → t.keys[j.val] = ss.core.keys[j.val] ∧ u.keys[j.val] = ss.core.keys[j.val]) ∧
    t = { ss.core with keys := t.keys } ∧ u = { ss.core with keys := u.keys }

/-! ### The invariant -/

/-- The invariant (the memory's canonical form; every stack entry an address that was fetched from) holds at reset. -/
def Obligations.InvariantAtReset : Prop := State.reset.Inv

/-- Every step keeps the invariant, from every state that has it (R26, R30, R69). -/
def Obligations.StepKeepsInvariant : Prop := ∀ s t : State, s.Inv → step s = .next t → t.Inv

/-- Every transaction of the host keeps the invariant (R270). -/
def Obligations.TransactionsKeepInvariant : Prop :=
  ∀ (tr : Transaction) (ss ss' : Session), ss.core.Inv → transact tr ss = .next ss' → ss'.core.Inv

/-! ### The cycle -/

/-- R121: a halted core does nothing at all. -/
def Obligations.HaltedCycleDoesNothing : Prop := ∀ s : State, s.fault.code ≠ 0 → step s = .next s

/-- R122: the fetch is big-endian from the bytes at `PC` and `PC+1`, and raises `FETCH_RANGE` when `PC > 0xFFE`. -/
def Obligations.FetchReadsTwoBytes : Prop :=
  ∀ s : State,
    (0xFFE < s.pc.toNat → s.fault = .noFault → step s = .next { s with fault := .fetchRange }) ∧
    (s.pc.toNat ≤ 0xFFE → ∃ op : Word, fetch s = some op ∧
      op.toNat = (Memory.get s.mem s.pc.toNat).toNat * 256 + (Memory.get s.mem (s.pc.toNat + 1)).toNat)

/-- R123, R129, R131: when the bytes at `PC` decode to `i` and the core is not halted, the step is `exec i`, after which
the timers decay unless the instruction raised a fault. -/
def Obligations.StepRunsDecodedInstruction : Prop :=
  ∀ (i : Instr) (s t : State), s.fault = .noFault → AtPc i s → exec i s = .next t →
    step s = .next (if t.fault = .noFault then decay t else t)

/-- R130: an unrecognised opcode moves `PC` by 2, decays the timers (with the beep of R128), and does nothing else. -/
def Obligations.UnrecognisedOpcodeIsNoOperation : Prop :=
  ∀ (s : State) (op w : Word), s.fault = .noFault → fetch s = some op → decode op = .unrecognised w →
    ∃ t : State, step s = .next t ∧ t.pc.toNat = s.pc.toNat + 2 ∧ t.dt.toNat = s.dt.toNat - 1 ∧
      t.st.toNat = s.st.toNat - 1 ∧ t.beeps = (if s.st.toNat = 1 then s.beeps + 1 else s.beeps) ∧
      t = { s with pc := t.pc, dt := t.dt, st := t.st, beeps := t.beeps }

/-- R127, R128: a cycle whose instruction completes ends with both timers one lower, if above zero, from the values
the handler left, with one beep exactly when the sound timer was 1. -/
def Obligations.TimersDecayAfterTheHandler : Prop :=
  ∀ (i : Instr) (s u : State), s.fault = .noFault → AtPc i s → exec i s = .next u → u.fault = .noFault →
    ∃ t : State, step s = .next t ∧ t.dt.toNat = u.dt.toNat - 1 ∧ t.st.toNat = u.st.toNat - 1 ∧
      t.beeps = (if u.st.toNat = 1 then u.beeps + 1 else u.beeps) ∧
      t = { u with dt := t.dt, st := t.st, beeps := t.beeps }

/-- R128: a cycle emits at most one beep, and emits one only if the sound timer is zero at its end. -/
def Obligations.AtMostOneBeepPerCycle : Prop :=
  ∀ s t : State, step s = .next t → t.beeps = s.beeps ∨ (t.beeps = s.beeps + 1 ∧ t.st = 0 ∧ t.fault = .noFault)

/-- Every state has a successor under `CYCLE` (spec/93 part 1, R303): no step refuses, and none stops the model. -/
def Obligations.EveryStepAnswersANextState : Prop := ∀ s : State, ∃ t : State, step s = .next t

/-- R251, R256: a cycle that ends with a fault recorded has changed nothing but `FAULT`. -/
def Obligations.FaultsArePrecise : Prop :=
  ∀ s t : State, step s = .next t → t.fault ≠ .noFault → t = { s with fault := t.fault }

/-- R257: a halted core stays halted, with the same code, under every transaction but `RESET`, which clears it. -/
def Obligations.OnlyResetLeavesTheHaltedState : Prop :=
  ∀ (tr : Transaction) (ss ss' : Session), ss.core.fault ≠ .noFault → transact tr ss = .next ss' →
    (tr ≠ .reset → ss'.core.fault = ss.core.fault) ∧ (tr = .reset → ss'.core.fault = .noFault)

/-- R252, R253, R255: which fault a cycle raises, by the conditions of the table and its priority, and the numbers of
the codes. -/
def Obligations.FaultsAreThoseOfTheTable : Prop :=
  (∀ s t : State, s.fault = .noFault → step s = .next t →
    t.fault = match fetch s with
      | none    => .fetchRange
      | some op => match decode op with
        | .instr i        => faultOf i s
        | .unrecognised _ => .noFault) ∧
  [FaultCode.noFault, .fetchRange, .memRange, .stackOverflow, .stackUnderflow, .fbRange, .keyRange, .valueRange].map
    (fun c => c.code.toNat) = [0, 1, 2, 3, 4, 5, 6, 7]

/-- R25, R26: where `PC` goes in a cycle that does not fault, as an unbounded number: it never wraps. The invariant
rules out stack entries that no call pushes. -/
def Obligations.PcChangesAsListed : Prop :=
  ∀ s t : State, s.Inv → s.fault = .noFault → step s = .next t → t.fault = .noFault →
    ∃ op : Word, fetch s = some op ∧
      t.pc.toNat = match decode op with
        | .instr i        => pcAfter i s
        | .unrecognised _ => s.pc.toNat + 2

/-! ### Who writes what: rules over all instructions -/

/-- R23: a general register changes only by an instruction that R23 lists as writing it. -/
def Obligations.RegisterWriters : Prop :=
  ∀ (i : Instr) (s t : State) (k : Reg), exec i s = .next t → mayWriteV i k = false → t.getV k = s.getV k

/-- R28: `I` is written by `ANNN FX1E FX29 FX55 FX65` only. -/
def Obligations.IndexWriters : Prop :=
  ∀ (i : Instr) (s t : State), exec i s = .next t → t.i ≠ s.i →
    (∃ nnn, i = .ldI nnn) ∨ (∃ x, i = .addIVx x ∨ i = .ldFVx x ∨ i = .ldMemVx x ∨ i = .ldVxMem x)

/-- R29, R30: `SP` is written by `2NNN` and `00EE` only, a stack entry by `2NNN` only, and only the entry at `SP`. -/
def Obligations.StackWriters : Prop :=
  ∀ (i : Instr) (s t : State), exec i s = .next t →
    (t.sp ≠ s.sp → i = .ret ∨ ∃ nnn, i = .call nnn) ∧
    (∀ k : Fin 16, t.stack[k.val] ≠ s.stack[k.val] → k.val = s.sp.val ∧ ∃ nnn, i = .call nnn)

/-- R31, R32: a handler writes `DT` in `FX15` only and `ST` in `FX18` only, and no handler emits a beep. -/
def Obligations.TimerWriters : Prop :=
  ∀ (i : Instr) (s t : State), exec i s = .next t →
    (t.dt ≠ s.dt → ∃ x, i = .ldDtVx x) ∧ (t.st ≠ s.st → ∃ x, i = .ldStVx x) ∧ t.beeps = s.beeps

/-- R33: no cycle changes a key latch. -/
def Obligations.CyclesNeverWriteKeys : Prop := ∀ s t : State, step s = .next t → t.keys = s.keys

/-- R68: a byte of memory changes only where `FX33` or `FX55` stores. -/
def Obligations.MemoryWriters : Prop :=
  ∀ (i : Instr) (s t : State) (a : Nat), Memory.wf s.mem = true → exec i s = .next t → a ∉ storedAddresses i s →
    Memory.read t.mem a = Memory.read s.mem a

/-- R70: the frame buffer is written by `00E0` and `DXYN` only. -/
def Obligations.FrameBufferWriters : Prop :=
  ∀ (i : Instr) (s t : State), exec i s = .next t → t.fb ≠ s.fb → i = .cls ∨ ∃ x y n, i = .drw x y n

/-! ### Control transfer -/

/-- R141: `1NNN`. -/
def Obligations.JumpGoesToTarget : Prop :=
  ∀ (nnn : Addr12) (s : State), ∃ t, exec (.jp nnn) s = .next t ∧ t.pc.toNat = nnn.toNat ∧ Frame {} s t

/-- R142: `2NNN` pushes its own address; at depth 16 it raises `STACK_OVERFLOW`. -/
def Obligations.CallPushesItsOwnAddress : Prop :=
  ∀ (nnn : Addr12) (s : State),
    (s.sp.val ≠ 16 → ∃ t, exec (.call nnn) s = .next t ∧ t.stack[s.sp.val]? = some s.pc ∧
      t.sp.val = s.sp.val + 1 ∧ t.pc.toNat = nnn.toNat ∧ Frame { sp := true, stack := [s.sp.val] } s t) ∧
    (s.sp.val = 16 → Raises .stackOverflow (.call nnn) s)

/-- R140: `00EE` pops and the cycle adds 2; the entry is not erased; at depth 0 it raises `STACK_UNDERFLOW`. No call
pushes an address above `0xFFE`, and nothing is claimed of `PC` for such an entry. -/
def Obligations.ReturnGoesPastTheCall : Prop :=
  ∀ s : State,
    (s.sp.val ≠ 0 → ∃ (t : State) (e : Word), exec .ret s = .next t ∧ t.sp.val = s.sp.val - 1 ∧
      s.stack[s.sp.val - 1]? = some e ∧ (e.toNat ≤ 0xFFE → t.pc.toNat = e.toNat + 2) ∧ Frame { sp := true } s t) ∧
    (s.sp.val = 0 → Raises .stackUnderflow .ret s)

/-- The source's property in R140: a return right after a call restores `PC` to the address following the call and
`SP` to its value before the call. -/
def Obligations.ReturnUndoesCall : Prop :=
  ∀ (nnn : Addr12) (s : State), s.sp.val ≠ 16 → s.pc.toNat ≤ 0xFFE →
    ∃ t u, exec (.call nnn) s = .next t ∧ exec .ret t = .next u ∧ u.pc.toNat = s.pc.toNat + 2 ∧ u.sp = s.sp

/-- R143, R144: the skips on an immediate compare the full 16-bit register with `NN`. -/
def Obligations.SkipsOnImmediate : Prop :=
  ∀ (x : Reg) (nn : Byte) (s : State),
    (∃ t, exec (.seImm x nn) s = .next t ∧
      PcMoves (if (s.getV x).toNat = nn.toNat then 4 else 2) s t ∧ Frame {} s t) ∧
    (∃ t, exec (.sneImm x nn) s = .next t ∧
      PcMoves (if (s.getV x).toNat = nn.toNat then 2 else 4) s t ∧ Frame {} s t)

/-- R145, R146: the skips on two registers. -/
def Obligations.SkipsOnRegisters : Prop :=
  ∀ (x y : Reg) (s : State),
    (∃ t, exec (.seReg x y) s = .next t ∧
      PcMoves (if (s.getV x).toNat = (s.getV y).toNat then 4 else 2) s t ∧ Frame {} s t) ∧
    (∃ t, exec (.sneReg x y) s = .next t ∧
      PcMoves (if (s.getV x).toNat = (s.getV y).toNat then 2 else 4) s t ∧ Frame {} s t)

/-- R147: `BNNN` adds all of `V[0]`; a sum above 16 bits raises `VALUE_RANGE`. -/
def Obligations.JumpWithOffset : Prop :=
  ∀ (nnn : Addr12) (s : State),
    (nnn.toNat + (s.getV 0).toNat ≤ 0xFFFF → ∃ t, exec (.jpV0 nnn) s = .next t ∧
      t.pc.toNat = nnn.toNat + (s.getV 0).toNat ∧ Frame {} s t) ∧
    (0xFFFF < nnn.toNat + (s.getV 0).toNat → Raises .valueRange (.jpV0 nnn) s)

/-! ### Loads and arithmetic -/

/-- R160, R161: `6XNN` zero-extends; `7XNN` wraps at 65536 and has no flag. -/
def Obligations.LoadAndAddImmediate : Prop :=
  ∀ (x : Reg) (nn : Byte) (s : State),
    (∃ t, exec (.ldImm x nn) s = .next t ∧ (t.getV x).toNat = nn.toNat ∧ PcMoves 2 s t ∧ Frame { v := [x] } s t) ∧
    (∃ t, exec (.addImm x nn) s = .next t ∧ (t.getV x).toNat = ((s.getV x).toNat + nn.toNat) % 65536 ∧
      PcMoves 2 s t ∧ Frame { v := [x] } s t)

/-- R162 to R165: copy, OR, AND, XOR of 16 bits, with no flag. -/
def Obligations.CopyAndLogic : Prop :=
  ∀ (x y : Reg) (s : State),
    (∃ t, exec (.ldReg x y) s = .next t ∧ t.getV x = s.getV y ∧ PcMoves 2 s t ∧ Frame { v := [x] } s t) ∧
    (∃ t, exec (.orReg x y) s = .next t ∧ PcMoves 2 s t ∧ Frame { v := [x] } s t ∧
      ∀ j, j < 16 → (t.getV x).getLsbD j = ((s.getV x).getLsbD j || (s.getV y).getLsbD j)) ∧
    (∃ t, exec (.andReg x y) s = .next t ∧ PcMoves 2 s t ∧ Frame { v := [x] } s t ∧
      ∀ j, j < 16 → (t.getV x).getLsbD j = ((s.getV x).getLsbD j && (s.getV y).getLsbD j)) ∧
    (∃ t, exec (.xorReg x y) s = .next t ∧ PcMoves 2 s t ∧ Frame { v := [x] } s t ∧
      ∀ j, j < 16 → (t.getV x).getLsbD j = ((s.getV x).getLsbD j != (s.getV y).getLsbD j))

/-- R166 with R173: `8XY4`; with `X = 0xF` the register ends as the carry. -/
def Obligations.AddSetsCarry : Prop :=
  ∀ (x y : Reg) (s : State), ∃ t, exec (.addReg x y) s = .next t ∧
    (x ≠ 0xF → (t.getV x).toNat = ((s.getV x).toNat + (s.getV y).toNat) % 65536) ∧
    (t.getV 0xF).toNat = (if (s.getV x).toNat + (s.getV y).toNat > 65535 then 1 else 0) ∧
    PcMoves 2 s t ∧ Frame { v := [x, 0xF] } s t

/-- R167, R169 with R173: `8XY5` and `8XY7`; the flag is 0 exactly when the difference is negative; with `X = 0xF` the
register ends as the flag. -/
def Obligations.SubtractSetsNotBorrow : Prop :=
  ∀ (x y : Reg) (s : State),
    (∃ t, exec (.subReg x y) s = .next t ∧
      (x ≠ 0xF → ((t.getV x).toNat : Int) = ((s.getV x).toNat - (s.getV y).toNat : Int) % 65536) ∧
      (t.getV 0xF).toNat = (if ((s.getV x).toNat : Int) - (s.getV y).toNat < 0 then 0 else 1) ∧
      PcMoves 2 s t ∧ Frame { v := [x, 0xF] } s t) ∧
    (∃ t, exec (.subnReg x y) s = .next t ∧
      (x ≠ 0xF → ((t.getV x).toNat : Int) = ((s.getV y).toNat - (s.getV x).toNat : Int) % 65536) ∧
      (t.getV 0xF).toNat = (if ((s.getV y).toNat : Int) - (s.getV x).toNat < 0 then 0 else 1) ∧
      PcMoves 2 s t ∧ Frame { v := [x, 0xF] } s t)

/-- R168, R170 with R173: `8XY6` and `8XYE` shift `V[X]` by one, whatever `Y`; the flag is the bit shifted out; with
`X = 0xF` the register ends as the flag. -/
def Obligations.ShiftsByOne : Prop :=
  ∀ (x y : Reg) (s : State),
    (∃ t, exec (.shr x y) s = .next t ∧ (∀ y', exec (.shr x y') s = .next t) ∧
      (x ≠ 0xF → (t.getV x).toNat = (s.getV x).toNat / 2) ∧ (t.getV 0xF).toNat = (s.getV x).toNat % 2 ∧
      PcMoves 2 s t ∧ Frame { v := [x, 0xF] } s t) ∧
    (∃ t, exec (.shl x y) s = .next t ∧ (∀ y', exec (.shl x y') s = .next t) ∧
      (x ≠ 0xF → (t.getV x).toNat = (s.getV x).toNat * 2 % 65536) ∧
      (t.getV 0xF).toNat = (if (s.getV x).getLsbD 15 then 1 else 0) ∧
      PcMoves 2 s t ∧ Frame { v := [x, 0xF] } s t)

/-- R171: `CXNN` stores the value presented AND `NN` and consumes one value, for every value `r` that the source may
present (`rndWith r`); `exec` presents the next free value (log entry 1). -/
def Obligations.RandomIsMasked : Prop :=
  ∀ (x : Reg) (nn : Byte) (s : State),
    (∃ t, exec (.rnd x nn) s = .next t ∧ rndWith (Config.random s.draws) x nn s = .next t ∧
      (t.getV x).toNat ≤ nn.toNat ∧ t.draws = s.draws + 1 ∧ PcMoves 2 s t ∧
      Frame { v := [x], draws := true } s t) ∧
    ∀ r : Byte, ∃ t, rndWith r x nn s = .next t ∧
      (∀ j, j < 16 → (t.getV x).getLsbD j = (decide (j < 8) && r.getLsbD j && nn.getLsbD j)) ∧
      (t.getV x).toNat ≤ nn.toNat ∧ t.draws = s.draws + 1 ∧ PcMoves 2 s t ∧ Frame { v := [x], draws := true } s t

/-! ### The index register and memory -/

/-- R190, R191: `ANNN`; `FX1E` wraps at 65536 and has no flag. -/
def Obligations.LoadAndAddToIndex : Prop :=
  (∀ (nnn : Addr12) (s : State), ∃ t, exec (.ldI nnn) s = .next t ∧ t.i.toNat = nnn.toNat ∧ PcMoves 2 s t ∧
    Frame { i := true } s t) ∧
  (∀ (x : Reg) (s : State), ∃ t, exec (.addIVx x) s = .next t ∧
    t.i.toNat = (s.i.toNat + (s.getV x).toNat) % 65536 ∧ PcMoves 2 s t ∧ Frame { i := true } s t)

/-- R192: `FX29` multiplies the whole register by 5; a product above 16 bits raises `VALUE_RANGE`. -/
def Obligations.FontAddressIsFiveTimes : Prop :=
  ∀ (x : Reg) (s : State),
    ((s.getV x).toNat * 5 ≤ 65535 → ∃ t, exec (.ldFVx x) s = .next t ∧ t.i.toNat = (s.getV x).toNat * 5 ∧
      PcMoves 2 s t ∧ Frame { i := true } s t) ∧
    (65535 < (s.getV x).toNat * 5 → Raises .valueRange (.ldFVx x) s)

/-- R193: `FX33` stores hundreds, tens and units at `I`, `I+1`, `I+2`; `MEM_RANGE` goes before `VALUE_RANGE`. -/
def Obligations.StoreDecimalDigits : Prop :=
  ∀ (x : Reg) (s : State), Memory.wf s.mem = true →
    (s.i.toNat + 2 ≤ 0xFFF → (s.getV x).toNat ≤ 999 → ∃ (t : State) (h d u : Byte), exec (.ldBVx x) s = .next t ∧
      Memory.read t.mem s.i.toNat = some h ∧ Memory.read t.mem (s.i.toNat + 1) = some d ∧
      Memory.read t.mem (s.i.toNat + 2) = some u ∧
      h.toNat = (s.getV x).toNat / 100 ∧ d.toNat = (s.getV x).toNat / 10 % 10 ∧ u.toNat = (s.getV x).toNat % 10 ∧
      PcMoves 2 s t ∧ Frame { mem := [s.i.toNat, s.i.toNat + 1, s.i.toNat + 2] } s t) ∧
    (0xFFF < s.i.toNat + 2 → Raises .memRange (.ldBVx x) s) ∧
    (s.i.toNat + 2 ≤ 0xFFF → 999 < (s.getV x).toNat → Raises .valueRange (.ldBVx x) s)

/-- R194: `FX55` stores `V[0..X]` at `I..I+X` and adds `X+1` to `I`; every stored register must fit a byte;
`MEM_RANGE` goes before `VALUE_RANGE`. -/
def Obligations.StoreRegisters : Prop :=
  ∀ (x : Reg) (s : State), Memory.wf s.mem = true →
    (s.i.toNat + x.toNat ≤ 0xFFF → (∀ k : Reg, k ≤ x → (s.getV k).toNat ≤ 255) →
      ∃ t, exec (.ldMemVx x) s = .next t ∧
        (∀ k : Reg, k ≤ x → ∃ b, Memory.read t.mem (s.i.toNat + k.toNat) = some b ∧ b.toNat = (s.getV k).toNat) ∧
        t.i.toNat = s.i.toNat + x.toNat + 1 ∧ PcMoves 2 s t ∧
        Frame { i := true, mem := (List.range (x.toNat + 1)).map (s.i.toNat + ·) } s t) ∧
    (0xFFF < s.i.toNat + x.toNat → Raises .memRange (.ldMemVx x) s) ∧
    (s.i.toNat + x.toNat ≤ 0xFFF → (∃ k : Reg, k ≤ x ∧ 255 < (s.getV k).toNat) → Raises .valueRange (.ldMemVx x) s)

/-- R195: `FX65` loads `V[0..X]`, zero-extended, from `I..I+X` and adds `X+1` to `I`; registers above `X` keep their
values. -/
def Obligations.LoadRegisters : Prop :=
  ∀ (x : Reg) (s : State),
    (s.i.toNat + x.toNat ≤ 0xFFF → ∃ t, exec (.ldVxMem x) s = .next t ∧
      (∀ k : Reg, k ≤ x → ∃ b, Memory.read s.mem (s.i.toNat + k.toNat) = some b ∧ (t.getV k).toNat = b.toNat) ∧
      (∀ k : Reg, x < k → t.getV k = s.getV k) ∧
      t.i.toNat = s.i.toNat + x.toNat + 1 ∧ PcMoves 2 s t ∧
      Frame { i := true, v := (List.range (x.toNat + 1)).map (BitVec.ofNat 4) } s t) ∧
    (0xFFF < s.i.toNat + x.toNat → Raises .memRange (.ldVxMem x) s)

/-- The source's property in R195: `FX55` then `FX65` with the same `X` and `I` restores `V[0..X]`, whatever the
registers held in between, and both leave `I` at its first value plus `X+1`. -/
def Obligations.StoreThenLoadRoundTrips : Prop :=
  ∀ (x : Reg) (s t : State) (v : Vector Word 16), Memory.wf s.mem = true → s.fault = .noFault →
    exec (.ldMemVx x) s = .next t → t.fault = .noFault →
    ∃ u, exec (.ldVxMem x) { t with i := s.i, v := v } = .next u ∧
      (∀ k : Reg, k ≤ x → u.getV k = s.getV k) ∧ t.i.toNat = s.i.toNat + x.toNat + 1 ∧ u.i = t.i

/-- R75: two bytes stored at `PC` and `PC+1` are the bytes the next fetch reads; it is how a test places a word. -/
def Obligations.FetchSeesWhatIsStored : Prop :=
  ∀ (s : State) (op : Word), Memory.wf s.mem = true → s.pc.toNat ≤ 0xFFE →
    fetch (s.withFetchWord 16 op.toNat) = some op ∧
    (∀ a : Nat, a ≠ s.pc.toNat → a ≠ s.pc.toNat + 1 →
      Memory.read (s.withFetchWord 16 op.toNat).mem a = Memory.read s.mem a) ∧
    s.withFetchWord 16 op.toNat = { s with mem := (s.withFetchWord 16 op.toNat).mem }

/-! ### The frame buffer -/

/-- R216: `00E0`. -/
def Obligations.ClearTurnsEveryPixelOff : Prop :=
  ∀ s : State, ∃ t, exec .cls s = .next t ∧ (∀ k : Nat, k < 2048 → FrameBuffer.read t.fb k = false) ∧
    PcMoves 2 s t ∧ Frame { fb := List.range 2048 } s t

/-- R211 to R215, R217: `DXYN` XORs each pixel into its cell and sets `VF` to the collision over the old cells;
`N = 0` draws nothing and clears `VF`; `MEM_RANGE` goes before `FB_RANGE`. -/
def Obligations.DrawXorsTheSprite : Prop :=
  ∀ (x y : Reg) (n : Nibble) (s : State),
    ((n.toNat = 0 ∨ (s.i.toNat + n.toNat - 1 ≤ 0xFFF ∧
        ((s.getV x).toNat + 7) + ((s.getV y).toNat + n.toNat - 1) * 64 ≤ 2047)) →
      ∃ t, exec (.drw x y n) s = .next t ∧
        (∀ row col : Nat, row < n.toNat → col < 8 →
          FrameBuffer.read t.fb (((s.getV x).toNat + col) + ((s.getV y).toNat + row) * 64) =
            (FrameBuffer.read s.fb (((s.getV x).toNat + col) + ((s.getV y).toNat + row) * 64) !=
              spritePixel s row col)) ∧
        ((t.getV 0xF).toNat = 1 ∨ (t.getV 0xF).toNat = 0) ∧
        ((t.getV 0xF).toNat = 1 ↔ ∃ row col : Nat, row < n.toNat ∧ col < 8 ∧ spritePixel s row col = true ∧
          FrameBuffer.read s.fb (((s.getV x).toNat + col) + ((s.getV y).toNat + row) * 64) = true) ∧
        PcMoves 2 s t ∧
        Frame { v := [0xF], fb := spriteArea (s.getV x).toNat (s.getV y).toNat n.toNat } s t) ∧
    (n.toNat ≠ 0 → 0xFFF < s.i.toNat + n.toNat - 1 → Raises .memRange (.drw x y n) s) ∧
    (n.toNat ≠ 0 → s.i.toNat + n.toNat - 1 ≤ 0xFFF →
      2047 < ((s.getV x).toNat + 7) + ((s.getV y).toNat + n.toNat - 1) * 64 → Raises .fbRange (.drw x y n) s)

/-- R218: the same draw twice in a row, at the same position (where a coordinate register is `VF`, that is a premise:
the first draw has left it as it was), restores every pixel; the first finds no collision if no covered cell is lit,
the second finds one exactly if the sprite has a 1 pixel. -/
def Obligations.DrawingTwiceRestores : Prop :=
  ∀ (x y : Reg) (n : Nibble) (s t : State), s.fault = .noFault → exec (.drw x y n) s = .next t →
    t.fault = .noFault → t.getV x = s.getV x → t.getV y = s.getV y →
    ∃ u, exec (.drw x y n) t = .next u ∧ u.fb = s.fb ∧
      ((∀ k ∈ spriteArea (s.getV x).toNat (s.getV y).toNat n.toNat, FrameBuffer.read s.fb k = false) →
        (t.getV 0xF).toNat = 0 ∧ ((u.getV 0xF).toNat = 1 ∨ (u.getV 0xF).toNat = 0) ∧
        ((u.getV 0xF).toNat = 1 ↔ ∃ row col : Nat, row < n.toNat ∧ col < 8 ∧ spritePixel s row col = true))

/-! ### Keys and timers -/

/-- R230, R231: the key skips, by the whole register; above 15 they raise `KEY_RANGE`. -/
def Obligations.SkipsOnKeys : Prop :=
  ∀ (x : Reg) (s : State),
    (∀ h : (s.getV x).toNat < 16,
      (∃ t, exec (.skp x) s = .next t ∧
        PcMoves (if s.keys[(s.getV x).toNat] then 4 else 2) s t ∧ Frame {} s t) ∧
      (∃ t, exec (.sknp x) s = .next t ∧
        PcMoves (if s.keys[(s.getV x).toNat] then 2 else 4) s t ∧ Frame {} s t)) ∧
    (15 < (s.getV x).toNat → Raises .keyRange (.skp x) s ∧ Raises .keyRange (.sknp x) s)

/-- R232: `FX0A` stores the least pressed key; with none pressed nothing changes and `PC` stays, and the cycle then
decays the timers as any other. -/
def Obligations.WaitForKey : Prop :=
  ∀ (x : Reg) (s : State),
    ((∀ k : Fin 16, s.keys[k.val] = false) → exec (.ldVxK x) s = .next s) ∧
    (∀ k : Fin 16, s.keys[k.val] = true → (∀ j : Fin 16, j.val < k.val → s.keys[j.val] = false) →
      ∃ t, exec (.ldVxK x) s = .next t ∧ (t.getV x).toNat = k.val ∧ PcMoves 2 s t ∧ Frame { v := [x] } s t) ∧
    (s.fault = .noFault → AtPc (.ldVxK x) s → (∀ k : Fin 16, s.keys[k.val] = false) →
      ∃ t, step s = .next t ∧ t.dt.toNat = s.dt.toNat - 1 ∧ t.st.toNat = s.st.toNat - 1 ∧
        t.beeps = (if s.st.toNat = 1 then s.beeps + 1 else s.beeps) ∧
        t = { s with dt := t.dt, st := t.st, beeps := t.beeps })

/-- R233: `FX07` reads the delay timer; the cycle that runs it leaves in `V[X]` the value from before its own decay,
and the timer one lower if above zero. -/
def Obligations.ReadDelayTimer : Prop :=
  ∀ (x : Reg) (s : State),
    (∃ t, exec (.ldVxDt x) s = .next t ∧ t.getV x = s.dt ∧ PcMoves 2 s t ∧ Frame { v := [x] } s t) ∧
    (s.fault = .noFault → AtPc (.ldVxDt x) s →
      ∃ t, step s = .next t ∧ t.getV x = s.dt ∧ t.dt.toNat = s.dt.toNat - 1 ∧ t.pc.toNat = s.pc.toNat + 2)

/-- R234, R235: `FX15` and `FX18` copy all 16 bits, and the decay of the same cycle follows: the timer ends the cycle
one lower if above zero, and a sound timer set to 1 beeps in this very cycle. -/
def Obligations.SetTimerThenDecay : Prop :=
  ∀ (x : Reg) (s : State),
    (∃ t, exec (.ldDtVx x) s = .next t ∧ t.dt = s.getV x ∧ PcMoves 2 s t ∧ Frame { dt := true } s t) ∧
    (∃ t, exec (.ldStVx x) s = .next t ∧ t.st = s.getV x ∧ PcMoves 2 s t ∧ Frame { st := true } s t) ∧
    (s.fault = .noFault → AtPc (.ldDtVx x) s →
      ∃ t, step s = .next t ∧ t.dt.toNat = (s.getV x).toNat - 1 ∧ t.pc.toNat = s.pc.toNat + 2) ∧
    (s.fault = .noFault → AtPc (.ldStVx x) s →
      ∃ t, step s = .next t ∧ t.st.toNat = (s.getV x).toNat - 1 ∧ t.pc.toNat = s.pc.toNat + 2 ∧
        t.beeps = (if (s.getV x).toNat = 1 then s.beeps + 1 else s.beeps))

/-! ### Encoding -/

/-- Decoding the word of an instruction gives it back, with every operand at every value, for all 34 (R91, R99). -/
def Obligations.DecodeOfEncode : Prop := ∀ i : Instr, decode (encode i) = .instr i

/-- A word that decodes to an instruction is that instruction's word: no bit of it is dropped (R97). -/
def Obligations.EncodeOfDecode : Prop := ∀ (w : Word) (i : Instr), decode w = .instr i → encode i = w

/-- R97: every word decodes either to exactly one row of R99, the one whose mask and match it meets, or to
`UNRECOGNISED`; no word matches two rows; what the decoder answers is well-formed. -/
def Obligations.DecoderAgreesWithTheTable : Prop :=
  ∀ w : Word,
    (∀ r ∈ opcodeTable, rowMatches r w = true → ∃ i, decode w = .instr i ∧ opcodeTable[rowOf i]? = some r) ∧
    (recognised w = false → decode w = .unrecognised w) ∧
    (∀ r ∈ opcodeTable, ∀ r' ∈ opcodeTable, rowMatches r w = true → rowMatches r' w = true → r = r') ∧
    (decode w).wf = true

/-- Words written out from R91 and R99, at least one for each format: what they decode to. -/
def Obligations.WordsOfTheTable : Prop :=
  decode 0x00E0 = .instr .cls ∧ decode 0x00EE = .instr .ret ∧ decode 0x1234 = .instr (.jp 0x234) ∧
  decode 0x332A = .instr (.seImm 3 0x2A) ∧ decode 0x5120 = .instr (.seReg 1 2) ∧
  decode 0x8127 = .instr (.subnReg 1 2) ∧ decode 0xC30F = .instr (.rnd 3 0x0F) ∧
  decode 0xD015 = .instr (.drw 0 1 5) ∧ decode 0xE2A1 = .instr (.sknp 2) ∧ decode 0xF365 = .instr (.ldVxMem 3) ∧
  decode 0x5121 = .unrecognised 0x5121 ∧ decode 0x0123 = .unrecognised 0x0123
end

