-- ==== Sys2Proof/Laws/Memory.lean ====
section
/-! SUPPORT. The memory: a read after a write, the canonical form, and what the multi-byte accesses do (R67 to R69). -/

namespace Sys2Proof.Machine

theorem get_of_below (m : Memory) (a : Nat) (h : m.all (fun c => decide (a < c.1)) = true) :
    Memory.get m a = initialByte a := by
  induction m with
  | nil => rfl
  | cons c m ih =>
    obtain ⟨a', b'⟩ := c
    simp only [List.all_cons, Bool.and_eq_true, decide_eq_true_eq] at h
    simp [Memory.get, Nat.ne_of_gt h.1, ih h.2]

theorem wf_cons (a : Nat) (b : Byte) (m : Memory) :
    Memory.wf ((a, b) :: m) = true ↔ a < Config.memSize ∧ b ≠ initialByte a ∧
      (m.all (fun c => decide (a < c.1)) = true) ∧ Memory.wf m = true := by
  simp [Memory.wf, and_assoc]

theorem all_above_mono {m : Memory} {a a' : Nat} (h : a ≤ a') (ha : m.all (fun c => decide (a' < c.1)) = true) :
    m.all (fun c => decide (a < c.1)) = true := by
  simp only [List.all_eq_true, decide_eq_true_eq] at ha ⊢
  exact fun c hc => Nat.lt_of_le_of_lt h (ha c hc)

theorem all_above_set {m : Memory} {a c : Nat} {b : Byte} (hc : c < a) (h : m.all (fun d => decide (c < d.1)) = true) :
    (Memory.set m a b).all (fun d => decide (c < d.1)) = true := by
  induction m with
  | nil => simp only [Memory.set]; split <;> simp [hc]
  | cons d m ih =>
    obtain ⟨a', b'⟩ := d
    simp only [List.all_cons, Bool.and_eq_true, decide_eq_true_eq] at h
    simp only [Memory.set]
    split_ifs <;> try simp only [List.all_cons, Bool.and_eq_true, decide_eq_true_eq]
    · exact ⟨h.1, ih h.2⟩
    · exact h.2
    · exact ⟨hc, h.2⟩
    · exact h
    · exact ⟨hc, h⟩

/-- A write keeps the canonical form. -/
theorem wf_set {m : Memory} {a : Nat} (b : Byte) (ha : a < Config.memSize) (h : Memory.wf m = true) :
    Memory.wf (Memory.set m a b) = true := by
  induction m with
  | nil => simp only [Memory.set]; split <;> simp_all [Memory.wf]
  | cons d m ih =>
    obtain ⟨a', b'⟩ := d
    obtain ⟨h1, h2, h3, h4⟩ := (wf_cons _ _ _).mp h
    simp only [Memory.set]
    split_ifs with c1 c2 c3 c4
    · exact (wf_cons _ _ _).mpr ⟨h1, h2, all_above_set c1 h3, ih h4⟩
    · exact h4
    · subst c2; exact (wf_cons _ _ _).mpr ⟨ha, c3, h3, h4⟩
    · exact h
    · refine (wf_cons _ _ _).mpr ⟨ha, c4, ?_, h⟩
      have hlt : a < a' := by omega
      simp only [List.all_cons, Bool.and_eq_true, decide_eq_true_eq]
      exact ⟨hlt, all_above_mono hlt.le h3⟩

/-- A read after a write: the byte written at its address, every other address as before (in the canonical form). -/
theorem get_set {m : Memory} (a c : Nat) (b : Byte) (h : Memory.wf m = true) :
    Memory.get (Memory.set m a b) c = if c = a then b else Memory.get m c := by
  induction m with
  | nil =>
    simp only [Memory.set]
    split_ifs with h1 h2 h2 <;> simp_all [Memory.get]
    exact fun hac => absurd hac.symm h2
  | cons d m ih =>
    obtain ⟨a', b'⟩ := d
    obtain ⟨-, h2, h3, h4⟩ := (wf_cons _ _ _).mp h
    simp only [Memory.set]
    split_ifs with c1 c2 c3 c4 c5 <;> simp_all only [Memory.get]
    all_goals grind [get_of_below, all_above_mono, Memory.get]

/-- Two memories in canonical form that hold the same bytes are the same list. -/
theorem memory_ext {m m' : Memory} (h : Memory.wf m = true) (h' : Memory.wf m' = true)
    (hg : ∀ a, Memory.get m a = Memory.get m' a) : m = m' := by
  induction m generalizing m' with
  | nil =>
    cases m' with
    | nil => rfl
    | cons d m' =>
      obtain ⟨a, b⟩ := d
      have := hg a
      have := ((wf_cons _ _ _).mp h').2.1
      simp_all [Memory.get]
  | cons c m ih =>
    obtain ⟨a, b⟩ := c
    obtain ⟨-, hb, hall, hw⟩ := (wf_cons _ _ _).mp h
    cases m' with
    | nil => have := hg a; simp_all [Memory.get]
    | cons d m' =>
      obtain ⟨a', b'⟩ := d
      obtain ⟨-, hb', hall', hw'⟩ := (wf_cons _ _ _).mp h'
      have key : a = a' := by
        rcases Nat.lt_trichotomy a a' with hlt | heq | hgt
        · have e := hg a
          simp only [Memory.get, Nat.ne_of_gt hlt, if_false] at e
          exact absurd (e.trans (get_of_below _ _ (all_above_mono hlt.le hall'))) hb
        · exact heq
        · have e := hg a'
          simp only [Memory.get, Nat.ne_of_gt hgt, if_false] at e
          exact absurd (e.symm.trans (get_of_below _ _ (all_above_mono hgt.le hall))) hb'
      subst key
      have hbb : b = b' := by have e := hg a; simpa [Memory.get] using e
      subst hbb
      congr 1
      refine ih hw hw' fun c => ?_
      by_cases hc : a = c
      · subst hc; rw [get_of_below _ _ hall, get_of_below _ _ hall']
      · have e := hg c; simpa [Memory.get, hc] using e

/-- `MemRead` (R67). -/
theorem read_some {m : Memory} {a : Nat} {b : Byte} :
    Memory.read m a = some b ↔ a < Config.memSize ∧ Memory.get m a = b := by
  simp only [Memory.read]; split <;> simp_all

/-- `MemWrite` (R67): what a write that is answered does. -/
theorem write_some {m m' : Memory} {a : Nat} {b : Byte} :
    Memory.write m a b = some m' ↔ a < Config.memSize ∧ m' = Memory.set m a b := by
  simp only [Memory.write]; split <;> simp_all [eq_comm]

/-- A load of `n` bytes is answered exactly when no address is above `0xFFF`, with the bytes in ascending order. -/
theorem loadBytes_eq (m : Memory) (a n : Nat) :
    Memory.loadBytes m a n =
      if n = 0 ∨ a + n ≤ Config.memSize then some ((List.range n).map fun k => Memory.get m (a + k)) else none := by
  induction n generalizing a with
  | zero => simp [Memory.loadBytes]
  | succ n ih =>
    simp only [Memory.loadBytes, ih, Memory.read, List.range_succ_eq_map]
    by_cases h : a + (n + 1) ≤ Config.memSize
    · have h1 : a < Config.memSize := by omega
      simp [h, h1, Function.comp_def, Nat.add_assoc, Nat.add_comm 1]
    · by_cases h1 : a < Config.memSize
      · have h2 : ¬(n = 0 ∨ a + 1 + n ≤ Config.memSize) := by omega
        simp [h, h1, h2]
      · simp [h, h1]

/-- A store is refused exactly when some address is above `0xFFF`. -/
theorem storeBytes_none (m : Memory) (a : Nat) (bs : List Byte) :
    Memory.storeBytes m a bs = none ↔ bs ≠ [] ∧ Config.memSize < a + bs.length := by
  induction bs generalizing m a with
  | nil => simp [Memory.storeBytes]
  | cons b bs ih =>
    simp only [Memory.storeBytes, Memory.write]
    by_cases h : a < Config.memSize
    · rw [if_pos h]
      simp only [ih, ne_eq, reduceCtorEq, not_false_eq_true, true_and, List.length_cons]
      cases bs <;> simp <;> omega
    · rw [if_neg h]
      simp only [Config.memSize] at h
      simp; omega

/-- A store that is answered has no address above `0xFFF`. -/
theorem storeBytes_fits {m m' : Memory} {a : Nat} {bs : List Byte} (h : Memory.storeBytes m a bs = some m') :
    bs = [] ∨ a + bs.length ≤ Config.memSize := by
  by_contra hc
  have := (storeBytes_none m a bs).mpr ⟨by tauto, by omega⟩
  simp [this] at h

/-- A store with no address above `0xFFF` is answered. -/
theorem storeBytes_of_fits (m : Memory) {a : Nat} {bs : List Byte} (h : a + bs.length ≤ Config.memSize) :
    ∃ m', Memory.storeBytes m a bs = some m' := by
  refine Option.ne_none_iff_exists'.mp fun hn => ?_
  have := ((storeBytes_none m a bs).mp hn).2
  omega

/-- A store keeps the canonical form, writes its bytes at ascending addresses, and leaves every other address alone. -/
theorem storeBytes_some {m m' : Memory} {a : Nat} {bs : List Byte} (h : Memory.storeBytes m a bs = some m')
    (hw : Memory.wf m = true) :
    Memory.wf m' = true ∧
      ∀ c, Memory.get m' c = if a ≤ c then (bs[c - a]?).getD (Memory.get m c) else Memory.get m c := by
  induction bs generalizing m a with
  | nil => simp only [Memory.storeBytes, Option.some.injEq] at h; subst h; exact ⟨hw, by simp⟩
  | cons b bs ih =>
    simp only [Memory.storeBytes, Memory.write] at h
    by_cases ha : a < Config.memSize
    · rw [if_pos ha] at h
      obtain ⟨hw', hg⟩ := ih h (wf_set b ha hw)
      refine ⟨hw', fun c => ?_⟩
      rw [hg c, get_set _ _ _ hw]
      rcases Nat.lt_trichotomy a c with hlt | heq | hgt
      · have e : c - a = (c - (a + 1)) + 1 := by omega
        have h1 : a + 1 ≤ c := hlt
        have h2 : c ≠ a := by omega
        simp [h1, hlt.le, h2, e]
      · subst heq; simp
      · have h1 : ¬ a + 1 ≤ c := by omega
        have h2 : ¬ a ≤ c := by omega
        have h3 : c ≠ a := by omega
        simp [h1, h2, h3]
    · rw [if_neg ha] at h
      cases h

end Sys2Proof.Machine
end

