-- ==== Sys2Proof/Laws/State.lean ====
section
/-! SUPPORT. One lemma per field per update of the state, so that no proof unfolds a record update; then what reading
a register sees after each update. -/

namespace Sys2Proof.Machine

@[simp] theorem State.setV_v (s : State) (k : Reg) (w : Word) : (s.setV k w).v = s.v.set k.toNat w := rfl
@[simp] theorem State.setV_i (s : State) (k : Reg) (w : Word) : (s.setV k w).i = s.i := rfl
@[simp] theorem State.setV_pc (s : State) (k : Reg) (w : Word) : (s.setV k w).pc = s.pc := rfl
@[simp] theorem State.setV_sp (s : State) (k : Reg) (w : Word) : (s.setV k w).sp = s.sp := rfl
@[simp] theorem State.setV_stack (s : State) (k : Reg) (w : Word) : (s.setV k w).stack = s.stack := rfl
@[simp] theorem State.setV_dt (s : State) (k : Reg) (w : Word) : (s.setV k w).dt = s.dt := rfl
@[simp] theorem State.setV_st (s : State) (k : Reg) (w : Word) : (s.setV k w).st = s.st := rfl
@[simp] theorem State.setV_keys (s : State) (k : Reg) (w : Word) : (s.setV k w).keys = s.keys := rfl
@[simp] theorem State.setV_fault (s : State) (k : Reg) (w : Word) : (s.setV k w).fault = s.fault := rfl
@[simp] theorem State.setV_mem (s : State) (k : Reg) (w : Word) : (s.setV k w).mem = s.mem := rfl
@[simp] theorem State.setV_fb (s : State) (k : Reg) (w : Word) : (s.setV k w).fb = s.fb := rfl
@[simp] theorem State.setV_beeps (s : State) (k : Reg) (w : Word) : (s.setV k w).beeps = s.beeps := rfl
@[simp] theorem State.setV_draws (s : State) (k : Reg) (w : Word) : (s.setV k w).draws = s.draws := rfl

@[simp] theorem State.setI_v (s : State) (w : Word) : (s.setI w).v = s.v := rfl
@[simp] theorem State.setI_i (s : State) (w : Word) : (s.setI w).i = w := rfl
@[simp] theorem State.setI_pc (s : State) (w : Word) : (s.setI w).pc = s.pc := rfl
@[simp] theorem State.setI_sp (s : State) (w : Word) : (s.setI w).sp = s.sp := rfl
@[simp] theorem State.setI_stack (s : State) (w : Word) : (s.setI w).stack = s.stack := rfl
@[simp] theorem State.setI_dt (s : State) (w : Word) : (s.setI w).dt = s.dt := rfl
@[simp] theorem State.setI_st (s : State) (w : Word) : (s.setI w).st = s.st := rfl
@[simp] theorem State.setI_keys (s : State) (w : Word) : (s.setI w).keys = s.keys := rfl
@[simp] theorem State.setI_fault (s : State) (w : Word) : (s.setI w).fault = s.fault := rfl
@[simp] theorem State.setI_mem (s : State) (w : Word) : (s.setI w).mem = s.mem := rfl
@[simp] theorem State.setI_fb (s : State) (w : Word) : (s.setI w).fb = s.fb := rfl
@[simp] theorem State.setI_beeps (s : State) (w : Word) : (s.setI w).beeps = s.beeps := rfl
@[simp] theorem State.setI_draws (s : State) (w : Word) : (s.setI w).draws = s.draws := rfl

@[simp] theorem State.setPc_v (s : State) (w : Word) : (s.setPc w).v = s.v := rfl
@[simp] theorem State.setPc_i (s : State) (w : Word) : (s.setPc w).i = s.i := rfl
@[simp] theorem State.setPc_pc (s : State) (w : Word) : (s.setPc w).pc = w := rfl
@[simp] theorem State.setPc_sp (s : State) (w : Word) : (s.setPc w).sp = s.sp := rfl
@[simp] theorem State.setPc_stack (s : State) (w : Word) : (s.setPc w).stack = s.stack := rfl
@[simp] theorem State.setPc_dt (s : State) (w : Word) : (s.setPc w).dt = s.dt := rfl
@[simp] theorem State.setPc_st (s : State) (w : Word) : (s.setPc w).st = s.st := rfl
@[simp] theorem State.setPc_keys (s : State) (w : Word) : (s.setPc w).keys = s.keys := rfl
@[simp] theorem State.setPc_fault (s : State) (w : Word) : (s.setPc w).fault = s.fault := rfl
@[simp] theorem State.setPc_mem (s : State) (w : Word) : (s.setPc w).mem = s.mem := rfl
@[simp] theorem State.setPc_fb (s : State) (w : Word) : (s.setPc w).fb = s.fb := rfl
@[simp] theorem State.setPc_beeps (s : State) (w : Word) : (s.setPc w).beeps = s.beeps := rfl
@[simp] theorem State.setPc_draws (s : State) (w : Word) : (s.setPc w).draws = s.draws := rfl

@[simp] theorem State.setDt_v (s : State) (w : Word) : (s.setDt w).v = s.v := rfl
@[simp] theorem State.setDt_i (s : State) (w : Word) : (s.setDt w).i = s.i := rfl
@[simp] theorem State.setDt_pc (s : State) (w : Word) : (s.setDt w).pc = s.pc := rfl
@[simp] theorem State.setDt_sp (s : State) (w : Word) : (s.setDt w).sp = s.sp := rfl
@[simp] theorem State.setDt_stack (s : State) (w : Word) : (s.setDt w).stack = s.stack := rfl
@[simp] theorem State.setDt_dt (s : State) (w : Word) : (s.setDt w).dt = w := rfl
@[simp] theorem State.setDt_st (s : State) (w : Word) : (s.setDt w).st = s.st := rfl
@[simp] theorem State.setDt_keys (s : State) (w : Word) : (s.setDt w).keys = s.keys := rfl
@[simp] theorem State.setDt_fault (s : State) (w : Word) : (s.setDt w).fault = s.fault := rfl
@[simp] theorem State.setDt_mem (s : State) (w : Word) : (s.setDt w).mem = s.mem := rfl
@[simp] theorem State.setDt_fb (s : State) (w : Word) : (s.setDt w).fb = s.fb := rfl
@[simp] theorem State.setDt_beeps (s : State) (w : Word) : (s.setDt w).beeps = s.beeps := rfl
@[simp] theorem State.setDt_draws (s : State) (w : Word) : (s.setDt w).draws = s.draws := rfl

@[simp] theorem State.setSt_v (s : State) (w : Word) : (s.setSt w).v = s.v := rfl
@[simp] theorem State.setSt_i (s : State) (w : Word) : (s.setSt w).i = s.i := rfl
@[simp] theorem State.setSt_pc (s : State) (w : Word) : (s.setSt w).pc = s.pc := rfl
@[simp] theorem State.setSt_sp (s : State) (w : Word) : (s.setSt w).sp = s.sp := rfl
@[simp] theorem State.setSt_stack (s : State) (w : Word) : (s.setSt w).stack = s.stack := rfl
@[simp] theorem State.setSt_dt (s : State) (w : Word) : (s.setSt w).dt = s.dt := rfl
@[simp] theorem State.setSt_st (s : State) (w : Word) : (s.setSt w).st = w := rfl
@[simp] theorem State.setSt_keys (s : State) (w : Word) : (s.setSt w).keys = s.keys := rfl
@[simp] theorem State.setSt_fault (s : State) (w : Word) : (s.setSt w).fault = s.fault := rfl
@[simp] theorem State.setSt_mem (s : State) (w : Word) : (s.setSt w).mem = s.mem := rfl
@[simp] theorem State.setSt_fb (s : State) (w : Word) : (s.setSt w).fb = s.fb := rfl
@[simp] theorem State.setSt_beeps (s : State) (w : Word) : (s.setSt w).beeps = s.beeps := rfl
@[simp] theorem State.setSt_draws (s : State) (w : Word) : (s.setSt w).draws = s.draws := rfl

@[simp] theorem State.setMem_v (s : State) (m : Memory) : (s.setMem m).v = s.v := rfl
@[simp] theorem State.setMem_i (s : State) (m : Memory) : (s.setMem m).i = s.i := rfl
@[simp] theorem State.setMem_pc (s : State) (m : Memory) : (s.setMem m).pc = s.pc := rfl
@[simp] theorem State.setMem_sp (s : State) (m : Memory) : (s.setMem m).sp = s.sp := rfl
@[simp] theorem State.setMem_stack (s : State) (m : Memory) : (s.setMem m).stack = s.stack := rfl
@[simp] theorem State.setMem_dt (s : State) (m : Memory) : (s.setMem m).dt = s.dt := rfl
@[simp] theorem State.setMem_st (s : State) (m : Memory) : (s.setMem m).st = s.st := rfl
@[simp] theorem State.setMem_keys (s : State) (m : Memory) : (s.setMem m).keys = s.keys := rfl
@[simp] theorem State.setMem_fault (s : State) (m : Memory) : (s.setMem m).fault = s.fault := rfl
@[simp] theorem State.setMem_mem (s : State) (m : Memory) : (s.setMem m).mem = m := rfl
@[simp] theorem State.setMem_fb (s : State) (m : Memory) : (s.setMem m).fb = s.fb := rfl
@[simp] theorem State.setMem_beeps (s : State) (m : Memory) : (s.setMem m).beeps = s.beeps := rfl
@[simp] theorem State.setMem_draws (s : State) (m : Memory) : (s.setMem m).draws = s.draws := rfl

@[simp] theorem State.setFb_v (s : State) (f : FrameBuffer) : (s.setFb f).v = s.v := rfl
@[simp] theorem State.setFb_i (s : State) (f : FrameBuffer) : (s.setFb f).i = s.i := rfl
@[simp] theorem State.setFb_pc (s : State) (f : FrameBuffer) : (s.setFb f).pc = s.pc := rfl
@[simp] theorem State.setFb_sp (s : State) (f : FrameBuffer) : (s.setFb f).sp = s.sp := rfl
@[simp] theorem State.setFb_stack (s : State) (f : FrameBuffer) : (s.setFb f).stack = s.stack := rfl
@[simp] theorem State.setFb_dt (s : State) (f : FrameBuffer) : (s.setFb f).dt = s.dt := rfl
@[simp] theorem State.setFb_st (s : State) (f : FrameBuffer) : (s.setFb f).st = s.st := rfl
@[simp] theorem State.setFb_keys (s : State) (f : FrameBuffer) : (s.setFb f).keys = s.keys := rfl
@[simp] theorem State.setFb_fault (s : State) (f : FrameBuffer) : (s.setFb f).fault = s.fault := rfl
@[simp] theorem State.setFb_mem (s : State) (f : FrameBuffer) : (s.setFb f).mem = s.mem := rfl
@[simp] theorem State.setFb_fb (s : State) (f : FrameBuffer) : (s.setFb f).fb = f := rfl
@[simp] theorem State.setFb_beeps (s : State) (f : FrameBuffer) : (s.setFb f).beeps = s.beeps := rfl
@[simp] theorem State.setFb_draws (s : State) (f : FrameBuffer) : (s.setFb f).draws = s.draws := rfl

@[simp] theorem State.countDraw_v (s : State) : (s.countDraw).v = s.v := rfl
@[simp] theorem State.countDraw_i (s : State) : (s.countDraw).i = s.i := rfl
@[simp] theorem State.countDraw_pc (s : State) : (s.countDraw).pc = s.pc := rfl
@[simp] theorem State.countDraw_sp (s : State) : (s.countDraw).sp = s.sp := rfl
@[simp] theorem State.countDraw_stack (s : State) : (s.countDraw).stack = s.stack := rfl
@[simp] theorem State.countDraw_dt (s : State) : (s.countDraw).dt = s.dt := rfl
@[simp] theorem State.countDraw_st (s : State) : (s.countDraw).st = s.st := rfl
@[simp] theorem State.countDraw_keys (s : State) : (s.countDraw).keys = s.keys := rfl
@[simp] theorem State.countDraw_fault (s : State) : (s.countDraw).fault = s.fault := rfl
@[simp] theorem State.countDraw_mem (s : State) : (s.countDraw).mem = s.mem := rfl
@[simp] theorem State.countDraw_fb (s : State) : (s.countDraw).fb = s.fb := rfl
@[simp] theorem State.countDraw_beeps (s : State) : (s.countDraw).beeps = s.beeps := rfl
@[simp] theorem State.countDraw_draws (s : State) : (s.countDraw).draws = s.draws + 1 := rfl

@[simp] theorem State.setResult_i (s : State) (x : Reg) (r : Word) (f : Bool) : (s.setResult x r f).i = s.i := rfl
@[simp] theorem State.setResult_pc (s : State) (x : Reg) (r : Word) (f : Bool) : (s.setResult x r f).pc = s.pc := rfl
@[simp] theorem State.setResult_sp (s : State) (x : Reg) (r : Word) (f : Bool) : (s.setResult x r f).sp = s.sp := rfl
@[simp] theorem State.setResult_stack (s : State) (x : Reg) (r : Word) (f : Bool) : (s.setResult x r f).stack = s.stack := rfl
@[simp] theorem State.setResult_dt (s : State) (x : Reg) (r : Word) (f : Bool) : (s.setResult x r f).dt = s.dt := rfl
@[simp] theorem State.setResult_st (s : State) (x : Reg) (r : Word) (f : Bool) : (s.setResult x r f).st = s.st := rfl
@[simp] theorem State.setResult_keys (s : State) (x : Reg) (r : Word) (f : Bool) : (s.setResult x r f).keys = s.keys := rfl
@[simp] theorem State.setResult_fault (s : State) (x : Reg) (r : Word) (f : Bool) : (s.setResult x r f).fault = s.fault := rfl
@[simp] theorem State.setResult_mem (s : State) (x : Reg) (r : Word) (f : Bool) : (s.setResult x r f).mem = s.mem := rfl
@[simp] theorem State.setResult_fb (s : State) (x : Reg) (r : Word) (f : Bool) : (s.setResult x r f).fb = s.fb := rfl
@[simp] theorem State.setResult_beeps (s : State) (x : Reg) (r : Word) (f : Bool) : (s.setResult x r f).beeps = s.beeps := rfl
@[simp] theorem State.setResult_draws (s : State) (x : Reg) (r : Word) (f : Bool) : (s.setResult x r f).draws = s.draws := rfl

@[simp] theorem State.loadRegs_i (s : State) (bs : List Byte) : (s.loadRegs bs).i = s.i := rfl
@[simp] theorem State.loadRegs_pc (s : State) (bs : List Byte) : (s.loadRegs bs).pc = s.pc := rfl
@[simp] theorem State.loadRegs_sp (s : State) (bs : List Byte) : (s.loadRegs bs).sp = s.sp := rfl
@[simp] theorem State.loadRegs_stack (s : State) (bs : List Byte) : (s.loadRegs bs).stack = s.stack := rfl
@[simp] theorem State.loadRegs_dt (s : State) (bs : List Byte) : (s.loadRegs bs).dt = s.dt := rfl
@[simp] theorem State.loadRegs_st (s : State) (bs : List Byte) : (s.loadRegs bs).st = s.st := rfl
@[simp] theorem State.loadRegs_keys (s : State) (bs : List Byte) : (s.loadRegs bs).keys = s.keys := rfl
@[simp] theorem State.loadRegs_fault (s : State) (bs : List Byte) : (s.loadRegs bs).fault = s.fault := rfl
@[simp] theorem State.loadRegs_mem (s : State) (bs : List Byte) : (s.loadRegs bs).mem = s.mem := rfl
@[simp] theorem State.loadRegs_fb (s : State) (bs : List Byte) : (s.loadRegs bs).fb = s.fb := rfl
@[simp] theorem State.loadRegs_beeps (s : State) (bs : List Byte) : (s.loadRegs bs).beeps = s.beeps := rfl
@[simp] theorem State.loadRegs_draws (s : State) (bs : List Byte) : (s.loadRegs bs).draws = s.draws := rfl

@[simp] theorem takeFault_v (c : FaultCode) (s : State) : (takeFault c s).v = s.v := rfl
@[simp] theorem takeFault_i (c : FaultCode) (s : State) : (takeFault c s).i = s.i := rfl
@[simp] theorem takeFault_pc (c : FaultCode) (s : State) : (takeFault c s).pc = s.pc := rfl
@[simp] theorem takeFault_sp (c : FaultCode) (s : State) : (takeFault c s).sp = s.sp := rfl
@[simp] theorem takeFault_stack (c : FaultCode) (s : State) : (takeFault c s).stack = s.stack := rfl
@[simp] theorem takeFault_dt (c : FaultCode) (s : State) : (takeFault c s).dt = s.dt := rfl
@[simp] theorem takeFault_st (c : FaultCode) (s : State) : (takeFault c s).st = s.st := rfl
@[simp] theorem takeFault_keys (c : FaultCode) (s : State) : (takeFault c s).keys = s.keys := rfl
@[simp] theorem takeFault_fault (c : FaultCode) (s : State) : (takeFault c s).fault = c := rfl
@[simp] theorem takeFault_mem (c : FaultCode) (s : State) : (takeFault c s).mem = s.mem := rfl
@[simp] theorem takeFault_fb (c : FaultCode) (s : State) : (takeFault c s).fb = s.fb := rfl
@[simp] theorem takeFault_beeps (c : FaultCode) (s : State) : (takeFault c s).beeps = s.beeps := rfl
@[simp] theorem takeFault_draws (c : FaultCode) (s : State) : (takeFault c s).draws = s.draws := rfl

@[simp] theorem skipIf_v (c : Bool) (s : State) : (skipIf c s).v = s.v := by cases c <;> rfl
@[simp] theorem skipIf_i (c : Bool) (s : State) : (skipIf c s).i = s.i := by cases c <;> rfl
@[simp] theorem skipIf_pc (c : Bool) (s : State) : (skipIf c s).pc = if c then s.pc + 2 else s.pc := by
  cases c <;> rfl
@[simp] theorem skipIf_sp (c : Bool) (s : State) : (skipIf c s).sp = s.sp := by cases c <;> rfl
@[simp] theorem skipIf_stack (c : Bool) (s : State) : (skipIf c s).stack = s.stack := by cases c <;> rfl
@[simp] theorem skipIf_dt (c : Bool) (s : State) : (skipIf c s).dt = s.dt := by cases c <;> rfl
@[simp] theorem skipIf_st (c : Bool) (s : State) : (skipIf c s).st = s.st := by cases c <;> rfl
@[simp] theorem skipIf_keys (c : Bool) (s : State) : (skipIf c s).keys = s.keys := by cases c <;> rfl
@[simp] theorem skipIf_fault (c : Bool) (s : State) : (skipIf c s).fault = s.fault := by cases c <;> rfl
@[simp] theorem skipIf_mem (c : Bool) (s : State) : (skipIf c s).mem = s.mem := by cases c <;> rfl
@[simp] theorem skipIf_fb (c : Bool) (s : State) : (skipIf c s).fb = s.fb := by cases c <;> rfl
@[simp] theorem skipIf_beeps (c : Bool) (s : State) : (skipIf c s).beeps = s.beeps := by cases c <;> rfl
@[simp] theorem skipIf_draws (c : Bool) (s : State) : (skipIf c s).draws = s.draws := by cases c <;> rfl

/-! ### Reading a register after an update -/

theorem State.getV_setV (s : State) (j k : Reg) (w : Word) :
    (s.setV k w).getV j = if j = k then w else s.getV j := by
  simp only [State.getV, State.setV, Vector.getElem_set, ← BitVec.toNat_inj, eq_comm]

@[simp] theorem State.getV_setV_self (s : State) (k : Reg) (w : Word) : (s.setV k w).getV k = w := by
  simp [State.getV_setV]

theorem State.getV_setV_ne (s : State) {j k : Reg} (w : Word) (h : j ≠ k) : (s.setV k w).getV j = s.getV j := by
  simp [State.getV_setV, h]

/-- Result first, flag second (R173): `VF` ends as the flag, whatever the destination. -/
theorem State.getV_setResult (s : State) (x j : Reg) (r : Word) (f : Bool) :
    (s.setResult x r f).getV j = if j = flagReg then flagWord f else if j = x then r else s.getV j := by
  simp [State.setResult, State.getV_setV]

/-- A register inside the loaded list holds its byte, zero-extended; one above it is unchanged (R195). -/
theorem State.getV_loadRegs (s : State) (bytes : List Byte) (k : Reg) :
    (s.loadRegs bytes).getV k = match bytes[k.toNat]? with
      | some b => byteWord b
      | none   => s.getV k :=
  Vector.getElem_ofFn _

@[simp] theorem State.getV_setI (s : State) (w : Word) (k : Reg) : (s.setI w).getV k = s.getV k := rfl
@[simp] theorem State.getV_setPc (s : State) (w : Word) (k : Reg) : (s.setPc w).getV k = s.getV k := rfl
@[simp] theorem State.getV_setDt (s : State) (w : Word) (k : Reg) : (s.setDt w).getV k = s.getV k := rfl
@[simp] theorem State.getV_setSt (s : State) (w : Word) (k : Reg) : (s.setSt w).getV k = s.getV k := rfl
@[simp] theorem State.getV_setMem (s : State) (m : Memory) (k : Reg) : (s.setMem m).getV k = s.getV k := rfl
@[simp] theorem State.getV_setFb (s : State) (f : FrameBuffer) (k : Reg) : (s.setFb f).getV k = s.getV k := rfl
@[simp] theorem State.getV_countDraw (s : State) (k : Reg) : s.countDraw.getV k = s.getV k := rfl
@[simp] theorem getV_takeFault (c : FaultCode) (s : State) (k : Reg) : (takeFault c s).getV k = s.getV k := rfl
@[simp] theorem getV_skipIf (c : Bool) (s : State) (k : Reg) : (skipIf c s).getV k = s.getV k := by cases c <;> rfl

end Sys2Proof.Machine
end

