-- ==== Sys2Proof/Laws/Ops.lean ====
section
/-! SUPPORT. What each shared operation can do: the endings of a handler, and the stack. -/

namespace Sys2Proof.Machine

/-- `advance` answers one state: the given one with `PC` moved by 2 (R125). -/
@[simp] theorem advance_next (s t : State) : advance s = .next t ↔ t = s.setPc (s.pc + 2) := by
  simp [advance, eq_comm]

/-- `stay` answers the given state (R125). -/
@[simp] theorem stay_next (s t : State) : stay s = .next t ↔ t = s := by simp [stay, eq_comm]

/-- `raise` answers the state at the start of the cycle with `FAULT` written (R251). -/
@[simp] theorem raise_next (c : FaultCode) (s t : State) : raise c s = .next t ↔ t = takeFault c s := by
  simp [raise, eq_comm]

/-- A push succeeds exactly below depth 16 (R29). -/
theorem push_none (s : State) (w : Word) : s.push w = none ↔ s.sp.val = 16 := by
  have := s.sp.isLt
  simp only [State.push]
  split <;> simp <;> omega

/-- What a push does: one entry written at `SP`, `SP` one more, nothing else (R142). -/
theorem push_some {s t : State} {w : Word} (h : s.push w = some t) :
    ∃ hs : s.sp.val < 16, t = { s with stack := s.stack.set s.sp.val w, sp := ⟨s.sp.val + 1, by omega⟩ } := by
  simp only [State.push] at h
  split at h
  · exact ⟨‹_›, by simpa using h.symm⟩
  · cases h

/-- A pop succeeds exactly above depth 0 (R29). -/
theorem pop_none (s : State) : s.pop = none ↔ s.sp.val = 0 := by
  simp only [State.pop]
  split <;> simp <;> omega

/-- What a pop does: the entry below `SP` is answered, `SP` is one less, nothing else (R140). -/
theorem pop_some {s t : State} {w : Word} (h : s.pop = some (w, t)) :
    ∃ hs : 0 < s.sp.val, w = s.stack[s.sp.val - 1]'(by omega) ∧ t = { s with sp := ⟨s.sp.val - 1, by omega⟩ } := by
  simp only [State.pop] at h
  split at h
  · simp only [Option.some.injEq, Prod.mk.injEq] at h
    exact ⟨‹_›, h.1.symm, h.2.symm⟩
  · cases h

/-- A key code names a latch exactly when it is at most 15 (R230). -/
theorem keyOf_none (s : State) (w : Word) : s.keyOf w = none ↔ w.toNat > 15 := by
  simp [State.keyOf]; omega

/-- The latch that a key code of at most 15 names (R230). -/
theorem keyOf_some {s : State} {w : Word} {down : Bool} :
    s.keyOf w = some down ↔ ∃ h : w.toNat < 16, s.keys[w.toNat] = down := by
  simp [State.keyOf, Vector.getElem?_eq_some_iff]

/-- No key code is found exactly when no key is pressed (R232). -/
theorem lowestKey_none (s : State) : s.lowestKey = none ↔ ∀ k : Fin 16, s.keys[k.val] = false := by
  simp only [State.lowestKey, List.findIdx?_eq_none_iff, id, Vector.mem_toList_iff]
  constructor
  · exact fun h k => h _ (Vector.getElem_mem _)
  · intro h b hb
    obtain ⟨k, hk, rfl⟩ := Vector.mem_iff_getElem.mp hb
    exact h ⟨k, hk⟩

/-- The code found is that of a pressed key below which no key is pressed (R232). -/
theorem lowestKey_some {s : State} {k : Nat} : s.lowestKey = some k ↔
    ∃ h : k < 16, s.keys[k] = true ∧ ∀ j : Fin 16, j.val < k → s.keys[j.val] = false := by
  simp only [State.lowestKey, List.findIdx?_eq_some_iff_getElem, id, Vector.getElem_toList, Vector.length_toList,
    Bool.not_eq_true]
  constructor
  · rintro ⟨h, hk, hl⟩
    exact ⟨h, hk, fun j hj => hl j.val hj⟩
  · rintro ⟨h, hk, hl⟩
    exact ⟨h, hk, fun j hj => hl ⟨j, by omega⟩ hj⟩

end Sys2Proof.Machine
end

