-- ==== Sys2Proof/Laws/Cycle.lean ====
section
/-! SUPPORT. The cycle: what the fetch answers, what the decay changes, and the inversion of a step (R129). -/

namespace Sys2Proof.Machine

/-- The fetch answers exactly when both bytes exist, most significant byte first (R122, R64). -/
theorem fetch_some (s : State) (w : Word) :
    fetch s = some w ↔ s.pc.toNat ≤ 0xFFE ∧
      w = wordOfBytes (Memory.get s.mem s.pc.toNat) (Memory.get s.mem (s.pc.toNat + 1)) := by
  have hpc := s.pc.isLt
  simp only [fetch, Memory.read, Config.memSize]
  by_cases h : s.pc.toNat ≤ 0xFFE
  · rw [if_pos (by omega), if_pos (by omega)]
    simp [h, eq_comm]
  · have h2 : ¬ s.pc.toNat + 1 < 4096 := by omega
    rw [if_neg h2]
    simp [h]

/-- The fetch is out of range exactly when `PC > 0xFFE` (R122). -/
theorem fetch_none (s : State) : fetch s = none ↔ 0xFFE < s.pc.toNat := by
  rw [Option.eq_none_iff_forall_ne_some]
  simp only [ne_eq, fetch_some]
  grind

/-! ### The decay, field by field -/

@[simp] theorem decay_v (s : State) : (decay s).v = s.v := by
  simp only [decay, decaySound, decayDelay]; split_ifs <;> rfl
@[simp] theorem decay_i (s : State) : (decay s).i = s.i := by
  simp only [decay, decaySound, decayDelay]; split_ifs <;> rfl
@[simp] theorem decay_pc (s : State) : (decay s).pc = s.pc := by
  simp only [decay, decaySound, decayDelay]; split_ifs <;> rfl
@[simp] theorem decay_sp (s : State) : (decay s).sp = s.sp := by
  simp only [decay, decaySound, decayDelay]; split_ifs <;> rfl
@[simp] theorem decay_stack (s : State) : (decay s).stack = s.stack := by
  simp only [decay, decaySound, decayDelay]; split_ifs <;> rfl
@[simp] theorem decay_keys (s : State) : (decay s).keys = s.keys := by
  simp only [decay, decaySound, decayDelay]; split_ifs <;> rfl
@[simp] theorem decay_fault (s : State) : (decay s).fault = s.fault := by
  simp only [decay, decaySound, decayDelay]; split_ifs <;> rfl
@[simp] theorem decay_mem (s : State) : (decay s).mem = s.mem := by
  simp only [decay, decaySound, decayDelay]; split_ifs <;> rfl
@[simp] theorem decay_fb (s : State) : (decay s).fb = s.fb := by
  simp only [decay, decaySound, decayDelay]; split_ifs <;> rfl
@[simp] theorem decay_draws (s : State) : (decay s).draws = s.draws := by
  simp only [decay, decaySound, decayDelay]; split_ifs <;> rfl

/-- `DT` above zero goes down by one; zero stays (R127). -/
theorem decay_dt (s : State) : (decay s).dt = if s.dt = 0 then 0 else s.dt - 1 := by
  simp only [decay, decaySound, decayDelay]; split_ifs <;> simp_all

/-- `ST` above zero goes down by one; zero stays (R128). -/
theorem decay_st (s : State) : (decay s).st = if s.st = 0 then 0 else s.st - 1 := by
  simp only [decay, decaySound, decayDelay]; split_ifs <;> simp_all

/-- One beep exactly when `ST` goes from 1 to 0 (R128). -/
theorem decay_beeps (s : State) : (decay s).beeps = if s.st = 1 then s.beeps + 1 else s.beeps := by
  simp only [decay, decaySound, decayDelay]; split_ifs <;> simp_all

/-- Everything a step can do: nothing when halted; a fetch fault; or the handler's state, left as it is when the
handler raised a fault and decayed when it did not. -/
theorem step_cases {s t : State} (h : step s = .next t) :
    (s.fault ≠ .noFault ∧ t = s) ∨
    (s.fault = .noFault ∧ fetch s = none ∧ t = takeFault .fetchRange s) ∨
    (∃ w u, s.fault = .noFault ∧ fetch s = some w ∧
      ((∃ i, decode w = .instr i ∧ exec i s = .next u) ∨
        (∃ w', decode w = .unrecognised w' ∧ execUnrecognised s = .next u)) ∧
      t = if u.fault = .noFault then decay u else u) := by
  have fin : ∀ r : Result, finishCycle r = .next t →
      ∃ u, r = .next u ∧ t = if u.fault = .noFault then decay u else u := by
    intro r hr
    cases r with
    | next u => refine ⟨u, rfl, ?_⟩; simp only [finishCycle] at hr; split_ifs at hr ⊢ <;> simpa using hr.symm
    | fault r => cases r
    | refused r => cases hr
  simp only [step, cycle] at h
  split_ifs at h with h0
  · cases hf : fetch s with
    | none => rw [hf] at h; exact .inr (.inl ⟨h0, rfl, by simpa using h⟩)
    | some w =>
      rw [hf] at h
      cases hd : decode w with
      | instr i =>
        simp only [hd] at h
        obtain ⟨u, hu, ht⟩ := fin _ h
        exact .inr (.inr ⟨w, u, h0, rfl, .inl ⟨i, hd, hu⟩, ht⟩)
      | unrecognised w' =>
        simp only [hd] at h
        obtain ⟨u, hu, ht⟩ := fin _ h
        exact .inr (.inr ⟨w, u, h0, rfl, .inr ⟨w', hd, hu⟩, ht⟩)
  · exact .inl ⟨h0, by simpa using h.symm⟩

end Sys2Proof.Machine
end

