-- ==== Sys2Proof/Laws/Encoding.lean ====
section
/-! SUPPORT. The formats of R91: a word is put together from its fields, and its fields are what it was put together
from. -/

namespace Sys2Proof

theorem formatNNN_fields (w : Word) : formatNNN (fieldFamily w) (fieldNNN w) = w := by
  apply BitVec.eq_of_getLsbD_eq
  intro k hk
  simp only [formatNNN, fieldFamily, fieldNNN, BitVec.getLsbD_append, BitVec.getLsbD_extractLsb']
  interval_cases k <;> simp

theorem formatXNN_fields (w : Word) : formatXNN (fieldFamily w) (fieldX w) (fieldNN w) = w := by
  apply BitVec.eq_of_getLsbD_eq
  intro k hk
  simp only [formatXNN, fieldFamily, fieldX, fieldNN, BitVec.getLsbD_append, BitVec.getLsbD_extractLsb']
  interval_cases k <;> simp

theorem formatXYN_fields (w : Word) : formatXYN (fieldFamily w) (fieldX w) (fieldY w) (fieldN w) = w := by
  apply BitVec.eq_of_getLsbD_eq
  intro k hk
  simp only [formatXYN, fieldFamily, fieldX, fieldY, fieldN, BitVec.getLsbD_append, BitVec.getLsbD_extractLsb']
  interval_cases k <;> simp

theorem fieldFamily_formatNNN (f : Nibble) (nnn : Addr12) : fieldFamily (formatNNN f nnn) = f := by
  apply BitVec.eq_of_getLsbD_eq
  intro k hk
  simp only [formatNNN, fieldFamily, BitVec.getLsbD_append, BitVec.getLsbD_extractLsb']
  interval_cases k <;> simp

theorem fieldNNN_formatNNN (f : Nibble) (nnn : Addr12) : fieldNNN (formatNNN f nnn) = nnn := by
  apply BitVec.eq_of_getLsbD_eq
  intro k hk
  simp only [formatNNN, fieldNNN, BitVec.getLsbD_append, BitVec.getLsbD_extractLsb']
  interval_cases k <;> simp

theorem fields_formatXNN (f : Nibble) (x : Reg) (nn : Byte) :
    fieldFamily (formatXNN f x nn) = f ∧ fieldX (formatXNN f x nn) = x ∧ fieldNN (formatXNN f x nn) = nn := by
  refine ⟨?_, ?_, ?_⟩ <;>
  · apply BitVec.eq_of_getLsbD_eq
    intro k hk
    simp only [formatXNN, fieldFamily, fieldX, fieldNN, BitVec.getLsbD_append, BitVec.getLsbD_extractLsb']
    interval_cases k <;> simp

theorem fields_formatXYN (f : Nibble) (x y : Reg) (n : Nibble) :
    fieldFamily (formatXYN f x y n) = f ∧ fieldX (formatXYN f x y n) = x ∧ fieldY (formatXYN f x y n) = y ∧
      fieldN (formatXYN f x y n) = n := by
  refine ⟨?_, ?_, ?_, ?_⟩ <;>
  · apply BitVec.eq_of_getLsbD_eq
    intro k hk
    simp only [formatXYN, fieldFamily, fieldX, fieldY, fieldN, BitVec.getLsbD_append, BitVec.getLsbD_extractLsb']
    interval_cases k <;> simp

end Sys2Proof
end

