-- ==== Sys2Proof/Laws/FrameBuffer.lean ====
section
/-! SUPPORT. The frame buffer: a cell after a write, two buffers with the same cells, and what a draw does to a cell
(R212, R213). -/

namespace Sys2Proof.Machine

theorem getLsbD_setRowBit (row : BitVec 64) (cx j : Nat) (p : Bool) (hj : j < 64) :
    (setRowBit row cx p).getLsbD j = if j = cx then p else row.getLsbD j := by
  by_cases h : j = cx
  · subst h; cases p <;> simp [setRowBit, hj]
  · cases p <;> simp [setRowBit, h, hj]

/-- `FbRead` after `FbWrite`: the cell written holds the value, every other cell is as before. -/
theorem fbRead_fbWrite (fb : FrameBuffer) {k j : Nat} (p : Bool) (hk : k < Config.fbCells) :
    FrameBuffer.read (FrameBuffer.write fb k p) j = if j = k then p else FrameBuffer.read fb j := by
  simp only [Config.fbCells] at hk
  have hrow : k / Config.fbWidth < 32 := by simp only [Config.fbWidth]; omega
  simp only [FrameBuffer.write, dif_pos hrow, FrameBuffer.read]
  by_cases hj : j / Config.fbWidth < 32
  · rw [Vector.getElem?_eq_getElem hj, Vector.getElem?_eq_getElem hj, Vector.getElem_set]
    by_cases hr : k / Config.fbWidth = j / Config.fbWidth
    · have hmod : j % Config.fbWidth < 64 := Nat.mod_lt _ (by decide)
      simp only [hr, if_true, getLsbD_setRowBit _ _ _ _ hmod]
      have : (j % Config.fbWidth = k % Config.fbWidth) ↔ j = k := by simp only [Config.fbWidth] at *; omega
      simp only [this]
    · have : j ≠ k := fun e => hr (by rw [e])
      simp [hr, this]
  · have : j ≠ k := fun e => hj (e ▸ hrow)
    rw [Vector.getElem?_eq_none (by omega), Vector.getElem?_eq_none (by omega)]
    simp [this]

/-- `00E0` leaves no cell lit (R216). -/
@[simp] theorem fbRead_clear (k : Nat) : FrameBuffer.read FrameBuffer.clear k = false := by
  simp only [FrameBuffer.read, FrameBuffer.clear]
  by_cases h : k / Config.fbWidth < 32
  · simp [Vector.getElem?_eq_getElem h]
  · rw [Vector.getElem?_eq_none (by omega)]

/-- Two frame buffers with the same 2048 cells are equal. -/
theorem fb_ext {fb fb' : FrameBuffer} (h : ∀ k < Config.fbCells, FrameBuffer.read fb k = FrameBuffer.read fb' k) :
    fb = fb' := by
  apply Vector.ext
  intro r hr
  apply BitVec.eq_of_getLsbD_eq
  intro c hc
  have e := h (r * 64 + c) (by simp only [Config.fbCells]; omega)
  have hd : (r * 64 + c) / Config.fbWidth = r := by simp only [Config.fbWidth]; omega
  have hm : (r * 64 + c) % Config.fbWidth = c := by simp only [Config.fbWidth]; omega
  simpa [FrameBuffer.read, hd, hm, Vector.getElem?_eq_getElem hr] using e

/-- How often a list of cells inverts cell `k`, modulo 2: its pixels over that cell, XORed. -/
def toggles (cells : List (Nat × Bool)) (k : Nat) : Bool :=
  cells.foldr (fun c acc => (decide (c.1 = k) && c.2) ^^ acc) false

/-- A draw XORs into each cell the pixels that fall on it, and changes no other cell (R213). -/
theorem fbRead_drawCells (fb : FrameBuffer) (cells : List (Nat × Bool)) (hin : ∀ c ∈ cells, c.1 < Config.fbCells)
    (k : Nat) : FrameBuffer.read (drawCells fb cells) k = (FrameBuffer.read fb k ^^ toggles cells k) := by
  induction cells generalizing fb with
  | nil => simp [drawCells, toggles]
  | cons c cells ih =>
    have hc : c.1 < Config.fbCells := hin c (by simp)
    have hrest : ∀ d ∈ cells, d.1 < Config.fbCells := fun d hd => hin d (by simp [hd])
    have e : drawCells fb (c :: cells) =
        drawCells (FrameBuffer.write fb c.1 (FrameBuffer.read fb c.1 ^^ c.2)) cells := rfl
    rw [e, ih _ hrest, fbRead_fbWrite _ _ hc]
    by_cases hk : k = c.1
    · subst hk; simp [toggles]
    · simp [toggles, hk, Ne.symm hk]

/-- A cell that no pixel falls on is not inverted. -/
theorem toggles_of_not_mem (cells : List (Nat × Bool)) (k : Nat) (h : k ∉ cells.map Prod.fst) :
    toggles cells k = false := by
  induction cells with
  | nil => rfl
  | cons c cells ih =>
    simp only [List.map_cons, List.mem_cons, not_or] at h
    have e : toggles (c :: cells) k = ((decide (c.1 = k) && c.2) ^^ toggles cells k) := rfl
    rw [e, ih h.2]
    simp [Ne.symm h.1]

/-- The cells of a sprite: column `col` of row `row`, at the linear index of R212. -/
theorem mem_spriteCells (x y : Word) (rows : List Byte) (c : Nat × Bool) :
    c ∈ spriteCells x y rows ↔
      ∃ row col b, rows[row]? = some b ∧ col < 8 ∧ c = (targetCell x y row col, pixel b col) := by
  simp only [spriteCells, List.mem_flatMap, List.mem_map, List.mem_range, List.mem_zipIdx_iff_getElem?, Prod.exists]
  constructor
  · rintro ⟨b, row, hb, col, hcol, rfl⟩; exact ⟨row, col, b, hb, hcol, rfl⟩
  · rintro ⟨row, col, b, hb, hcol, rfl⟩; exact ⟨b, row, hb, col, hcol, rfl⟩

/-- The one test of R217 bounds every target cell of the sprite. -/
theorem spriteCells_lt {x y : Word} {rows : List Byte} (h : spriteFits x y rows.length = true) :
    ∀ c ∈ spriteCells x y rows, c.1 < Config.fbCells := by
  intro c hc
  obtain ⟨row, col, b, hb, hcol, rfl⟩ := (mem_spriteCells _ _ _ _).mp hc
  have hrow : row < rows.length := (List.getElem?_eq_some_iff.mp hb).1
  have h := of_decide_eq_true h
  simp only [Config.fbWidth, Config.fbCells] at h
  simp only [targetCell, Config.fbWidth, Config.fbCells]
  omega

end Sys2Proof.Machine
end

