-- ==== Sys2Proof/Laws/PerInstr.lean ====
section
/-! SUPPORT. Per-instruction families: a statement about an instruction as syntax, and one lemma per constructor. -/

/-- The word of an instruction matches the row of R99 that the instruction belongs to: `(op AND mask) = match` (R97). -/
def Sys2Proof.Laws.MatchesRow.Statement (i : Sys2Proof.Instr) : Prop :=
  ∃ r, Sys2Proof.opcodeTable[Sys2Proof.rowOf i]? = some r ∧ Sys2Proof.rowMatches r (Sys2Proof.encode i) = true

namespace Sys2Proof.Laws.MatchesRow

theorem nnn_row (family : Nibble) (nnn : Addr12) : formatNNN family nnn &&& 0xF000#16 = formatNNN family 0 := by
  apply BitVec.eq_of_getLsbD_eq
  intro k hk
  simp only [formatNNN, BitVec.getLsbD_and, BitVec.getLsbD_append]
  interval_cases k <;> simp

theorem xnn_row (family : Nibble) (x : Reg) (nn : Byte) :
    formatXNN family x nn &&& 0xF000#16 = formatXNN family 0 0 ∧
    formatXNN family x nn &&& 0xF0FF#16 = formatXNN family 0 nn := by
  constructor <;>
  · apply BitVec.eq_of_getLsbD_eq
    intro k hk
    simp only [formatXNN, BitVec.getLsbD_and, BitVec.getLsbD_append]
    interval_cases k <;> simp

theorem xyn_row (family : Nibble) (x y : Reg) (n : Nibble) :
    formatXYN family x y n &&& 0xF000#16 = formatXYN family 0 0 0 ∧
    formatXYN family x y n &&& 0xF00F#16 = formatXYN family 0 0 n := by
  constructor <;>
  · apply BitVec.eq_of_getLsbD_eq
    intro k hk
    simp only [formatXYN, BitVec.getLsbD_and, BitVec.getLsbD_append]
    interval_cases k <;> simp

theorem cls : Statement (.cls) :=
  ⟨_, rfl, by decide⟩

theorem ret : Statement (.ret) :=
  ⟨_, rfl, by decide⟩

theorem jp (nnn : Addr12) : Statement (.jp nnn) :=
  ⟨_, rfl, beq_iff_eq.mpr (nnn_row _ nnn)⟩

theorem call (nnn : Addr12) : Statement (.call nnn) :=
  ⟨_, rfl, beq_iff_eq.mpr (nnn_row _ nnn)⟩

theorem seImm (x : Reg) (nn : Byte) : Statement (.seImm x nn) :=
  ⟨_, rfl, beq_iff_eq.mpr ((xnn_row _ x nn).1)⟩

theorem sneImm (x : Reg) (nn : Byte) : Statement (.sneImm x nn) :=
  ⟨_, rfl, beq_iff_eq.mpr ((xnn_row _ x nn).1)⟩

theorem seReg (x : Reg) (y : Reg) : Statement (.seReg x y) :=
  ⟨_, rfl, beq_iff_eq.mpr ((xyn_row _ x y _).2)⟩

theorem ldImm (x : Reg) (nn : Byte) : Statement (.ldImm x nn) :=
  ⟨_, rfl, beq_iff_eq.mpr ((xnn_row _ x nn).1)⟩

theorem addImm (x : Reg) (nn : Byte) : Statement (.addImm x nn) :=
  ⟨_, rfl, beq_iff_eq.mpr ((xnn_row _ x nn).1)⟩

theorem ldReg (x : Reg) (y : Reg) : Statement (.ldReg x y) :=
  ⟨_, rfl, beq_iff_eq.mpr ((xyn_row _ x y _).2)⟩

theorem orReg (x : Reg) (y : Reg) : Statement (.orReg x y) :=
  ⟨_, rfl, beq_iff_eq.mpr ((xyn_row _ x y _).2)⟩

theorem andReg (x : Reg) (y : Reg) : Statement (.andReg x y) :=
  ⟨_, rfl, beq_iff_eq.mpr ((xyn_row _ x y _).2)⟩

theorem xorReg (x : Reg) (y : Reg) : Statement (.xorReg x y) :=
  ⟨_, rfl, beq_iff_eq.mpr ((xyn_row _ x y _).2)⟩

theorem addReg (x : Reg) (y : Reg) : Statement (.addReg x y) :=
  ⟨_, rfl, beq_iff_eq.mpr ((xyn_row _ x y _).2)⟩

theorem subReg (x : Reg) (y : Reg) : Statement (.subReg x y) :=
  ⟨_, rfl, beq_iff_eq.mpr ((xyn_row _ x y _).2)⟩

theorem shr (x : Reg) (y : Reg) : Statement (.shr x y) :=
  ⟨_, rfl, beq_iff_eq.mpr ((xyn_row _ x y _).2)⟩

theorem subnReg (x : Reg) (y : Reg) : Statement (.subnReg x y) :=
  ⟨_, rfl, beq_iff_eq.mpr ((xyn_row _ x y _).2)⟩

theorem shl (x : Reg) (y : Reg) : Statement (.shl x y) :=
  ⟨_, rfl, beq_iff_eq.mpr ((xyn_row _ x y _).2)⟩

theorem sneReg (x : Reg) (y : Reg) : Statement (.sneReg x y) :=
  ⟨_, rfl, beq_iff_eq.mpr ((xyn_row _ x y _).2)⟩

theorem ldI (nnn : Addr12) : Statement (.ldI nnn) :=
  ⟨_, rfl, beq_iff_eq.mpr (nnn_row _ nnn)⟩

theorem jpV0 (nnn : Addr12) : Statement (.jpV0 nnn) :=
  ⟨_, rfl, beq_iff_eq.mpr (nnn_row _ nnn)⟩

theorem rnd (x : Reg) (nn : Byte) : Statement (.rnd x nn) :=
  ⟨_, rfl, beq_iff_eq.mpr ((xnn_row _ x nn).1)⟩

theorem drw (x : Reg) (y : Reg) (n : Nibble) : Statement (.drw x y n) :=
  ⟨_, rfl, beq_iff_eq.mpr ((xyn_row _ x y n).1)⟩

theorem skp (x : Reg) : Statement (.skp x) :=
  ⟨_, rfl, beq_iff_eq.mpr ((xnn_row _ x _).2)⟩

theorem sknp (x : Reg) : Statement (.sknp x) :=
  ⟨_, rfl, beq_iff_eq.mpr ((xnn_row _ x _).2)⟩

theorem ldVxDt (x : Reg) : Statement (.ldVxDt x) :=
  ⟨_, rfl, beq_iff_eq.mpr ((xnn_row _ x _).2)⟩

theorem ldVxK (x : Reg) : Statement (.ldVxK x) :=
  ⟨_, rfl, beq_iff_eq.mpr ((xnn_row _ x _).2)⟩

theorem ldDtVx (x : Reg) : Statement (.ldDtVx x) :=
  ⟨_, rfl, beq_iff_eq.mpr ((xnn_row _ x _).2)⟩

theorem ldStVx (x : Reg) : Statement (.ldStVx x) :=
  ⟨_, rfl, beq_iff_eq.mpr ((xnn_row _ x _).2)⟩

theorem addIVx (x : Reg) : Statement (.addIVx x) :=
  ⟨_, rfl, beq_iff_eq.mpr ((xnn_row _ x _).2)⟩

theorem ldFVx (x : Reg) : Statement (.ldFVx x) :=
  ⟨_, rfl, beq_iff_eq.mpr ((xnn_row _ x _).2)⟩

theorem ldBVx (x : Reg) : Statement (.ldBVx x) :=
  ⟨_, rfl, beq_iff_eq.mpr ((xnn_row _ x _).2)⟩

theorem ldMemVx (x : Reg) : Statement (.ldMemVx x) :=
  ⟨_, rfl, beq_iff_eq.mpr ((xnn_row _ x _).2)⟩

theorem ldVxMem (x : Reg) : Statement (.ldVxMem x) :=
  ⟨_, rfl, beq_iff_eq.mpr ((xnn_row _ x _).2)⟩

end Sys2Proof.Laws.MatchesRow
end

