-- ==== Sys2Proof/Tests/Slice0.lean ====
section
/-! SUPPORT. Tests. Expected values come from spec/95_test_vectors.md (its sections are named) or from the rules'
own numbers. Then, for every statement with hypotheses, concrete inputs that meet them. -/

open Sys2Proof Sys2Proof.Machine

namespace Sys2Proof.Tests

/-! ### Helpers -/

/-- The reset state with one word at `0x200`. -/
def boot (w : Nat) : State := State.reset.withFetchWord 16 w

/-- The next state that an outcome holds. -/
def after : Result → State
  | .next s => s
  | _       => State.reset

/-- What one step leads to, seen through `f`. -/
def see {α : Type} (f : State → α) (s : State) : Option α :=
  match step s with
  | .next t => some (f t)
  | _       => none

/-- The fault of one step, with the evidence that nothing else changed (R251). -/
def trapsWith (c : Nat) (s : State) : Bool :=
  match step s with
  | .next t => t.fault.code.toNat == c && decide (t = { s with fault := t.fault })
  | _       => false

/-- One byte written to memory. -/
def poke (a : Nat) (b : Byte) (s : State) : State := s.setMem (Memory.set s.mem a b)

/-- The stack with `n` entries, the top one `e`. -/
def stacked (n : Fin 17) (e : Word) (s : State) : State :=
  { s with sp := n, stack := Vector.replicate 16 e }

/-! ### WellFormed: each check refuses an ill-formed term -/

theorem test_wf_refuses_a_recognised_word : Decoded.wf (.unrecognised 0x00E0) = false := by decide
theorem test_wf_takes_an_unrecognised_word : Decoded.wf (.unrecognised 0x5121) = true := by decide
theorem test_wf_takes_an_instruction : Decoded.wf (.instr (.drw 15 15 15)) = true := by decide
theorem test_imageWf_refuses_3585 : imageWf (List.replicate 3585 0) = false := by
  simp only [imageWf, List.length_replicate]; decide
theorem test_imageWf_takes_3584_and_0 : imageWf (List.replicate 3584 0) = true ∧ imageWf [] = true := by
  simp only [imageWf, List.length_replicate]; decide

/-! ### Decoding: one word per constructor, written out from R91 and R99 -/

theorem test_decode_family_0 : decode 0x00E0 = .instr .cls ∧ decode 0x00EE = .instr .ret := by decide
theorem test_decode_jump_call : decode 0x1234 = .instr (.jp 0x234) ∧ decode 0x2ABC = .instr (.call 0xABC) := by decide
theorem test_decode_skip_immediate :
    decode 0x332A = .instr (.seImm 3 0x2A) ∧ decode 0x4C81 = .instr (.sneImm 12 0x81) := by decide
theorem test_decode_skip_register :
    decode 0x5120 = .instr (.seReg 1 2) ∧ decode 0x9AB0 = .instr (.sneReg 10 11) := by decide
theorem test_decode_immediate :
    decode 0x63AB = .instr (.ldImm 3 0xAB) ∧ decode 0x7F01 = .instr (.addImm 15 1) ∧
    decode 0xC30F = .instr (.rnd 3 0x0F) := by decide
theorem test_decode_logic :
    decode 0x8120 = .instr (.ldReg 1 2) ∧ decode 0x8121 = .instr (.orReg 1 2) ∧
    decode 0x8122 = .instr (.andReg 1 2) ∧ decode 0x8123 = .instr (.xorReg 1 2) := by decide
theorem test_decode_arithmetic :
    decode 0x8124 = .instr (.addReg 1 2) ∧ decode 0x8125 = .instr (.subReg 1 2) ∧
    decode 0x8126 = .instr (.shr 1 2) ∧ decode 0x8127 = .instr (.subnReg 1 2) ∧
    decode 0x812E = .instr (.shl 1 2) := by decide
theorem test_decode_address : decode 0xA123 = .instr (.ldI 0x123) ∧ decode 0xBFFF = .instr (.jpV0 0xFFF) := by decide
theorem test_decode_draw : decode 0xD12F = .instr (.drw 1 2 15) := by decide
theorem test_decode_keys : decode 0xE29E = .instr (.skp 2) ∧ decode 0xE2A1 = .instr (.sknp 2) := by decide
theorem test_decode_timers_and_wait :
    decode 0xF307 = .instr (.ldVxDt 3) ∧ decode 0xF30A = .instr (.ldVxK 3) ∧ decode 0xF315 = .instr (.ldDtVx 3) ∧
    decode 0xF318 = .instr (.ldStVx 3) := by decide
theorem test_decode_index_and_memory :
    decode 0xF31E = .instr (.addIVx 3) ∧ decode 0xF329 = .instr (.ldFVx 3) ∧ decode 0xF333 = .instr (.ldBVx 3) ∧
    decode 0xF355 = .instr (.ldMemVx 3) ∧ decode 0xF365 = .instr (.ldVxMem 3) := by decide

/-- Section 2.1: words that no row of R99 matches. -/
theorem test_decode_unrecognised_low :
    decode 0x0000 = .unrecognised 0x0000 ∧
    decode 0x00E1 = .unrecognised 0x00E1 ∧
    decode 0x0FFF = .unrecognised 0x0FFF ∧
    decode 0x5121 = .unrecognised 0x5121 ∧
    decode 0x9121 = .unrecognised 0x9121 := by decide
theorem test_decode_unrecognised_math :
    decode 0x8128 = .unrecognised 0x8128 ∧
    decode 0x812D = .unrecognised 0x812D ∧
    decode 0x812F = .unrecognised 0x812F := by decide
theorem test_decode_unrecognised_high :
    decode 0xE29F = .unrecognised 0xE29F ∧
    decode 0xE200 = .unrecognised 0xE200 ∧
    decode 0xF300 = .unrecognised 0xF300 ∧
    decode 0xF375 = .unrecognised 0xF375 ∧
    decode 0xFFFF = .unrecognised 0xFFFF := by decide
/-- The words of section 2.5 come back from the encoder. -/
theorem test_encode : encode (.addIVx 2) = 0xF21E ∧ encode (.drw 0 1 5) = 0xD015 ∧ encode (.jpV0 0xFFF) = 0xBFFF := by
  decide
/-- The table's word reaches the decoder as two bytes, the more significant first (S8). -/
theorem test_decodeTableWord : decodeTableWord 16 0xA123 = some (.ldI 0x123) ∧ decodeTableWord 16 0x5121 = none := by
  decide

/-! ### Fetch and cycle (section 2.2) -/

theorem test_fetch_last_word :
    see (fun t => (t.getV 1, t.pc)) (poke 0xFFE 0x61 (poke 0xFFF 0x07 (State.reset.setPc 0xFFE))) = some (7, 0x1000) := by
  decide
theorem test_fetch_range : trapsWith 1 (State.reset.setPc 0xFFF) = true := by decide
theorem test_fetch_odd_address :
    see (fun t => (t.getV 1, t.pc)) (poke 0x201 0x61 (poke 0x202 0x07 (State.reset.setPc 0x201))) = some (7, 0x203) := by
  decide
theorem test_halted : see id { boot 0x6107 with fault := .stackOverflow, dt := 5 } =
    some { boot 0x6107 with fault := .stackOverflow, dt := 5 } := by decide
theorem test_unrecognised_beeps :
    see (fun t => (t.pc, t.dt, t.st, t.beeps, t.getV 1)) { (boot 0x8128).setV 1 7 with dt := 2, st := 1 } =
      some (0x202, 1, 0, 1, 7) := by decide

/-! ### Control transfer (section 2.3) -/

theorem test_jp : see (·.pc) (boot 0x1FFF) = some 0xFFF := by decide
theorem test_call : see (fun t => (t.stack[0], t.sp, t.pc)) (boot 0x2300) = some (0x200, 1, 0x300) := by decide
theorem test_call_overflows : trapsWith 3 (stacked 16 0x200 (boot 0x2300)) = true := by decide
theorem test_ret : see (fun t => (t.stack[0], t.sp, t.pc)) (stacked 1 0xFFE (boot 0x00EE)) = some (0xFFE, 0, 0x1000) := by
  decide
theorem test_ret_underflows : trapsWith 4 (boot 0x00EE) = true := by decide
theorem test_seImm : see (·.pc) ((boot 0x332A).setV 3 0x2A) = some 0x204 := by decide
theorem test_seImm_compares_16_bits : see (·.pc) ((boot 0x332A).setV 3 0x12A) = some 0x202 := by decide
theorem test_sneImm : see (·.pc) ((boot 0x432A).setV 3 0x2A) = some 0x202 := by decide
theorem test_sneImm_compares_16_bits : see (·.pc) ((boot 0x432A).setV 3 0x12A) = some 0x204 := by decide
theorem test_seReg : see (·.pc) (((boot 0x5120).setV 1 7).setV 2 8) = some 0x202 := by decide
theorem test_seReg_same : see (·.pc) ((boot 0x5110).setV 1 7) = some 0x204 := by decide
theorem test_sneReg : see (·.pc) (((boot 0x9120).setV 1 7).setV 2 8) = some 0x204 := by decide
theorem test_sneReg_same : see (·.pc) ((boot 0x9110).setV 1 7) = some 0x202 := by decide
theorem test_jpV0 : see (·.pc) ((boot 0xBFFF).setV 0 0xF000) = some 0xFFFF := by decide
theorem test_jpV0_traps : trapsWith 7 ((boot 0xBFFF).setV 0 0xF001) = true := by decide

/-! ### Loads and arithmetic (section 2.4) -/

theorem test_ldImm : see (·.getV 3) ((boot 0x63AB).setV 3 0xFFFF) = some 0xAB := by decide
theorem test_addImm : see (·.getV 3) ((boot 0x73FF).setV 3 0xA) = some 0x109 := by decide
theorem test_addImm_on_VF : see (·.getV 0xF) ((boot 0x7F01).setV 0xF 0xFFFF) = some 0 := by decide

/-- `V1 = 1234`, `V2 = 0F0F`, `VF = 1`. -/
def logicStart (w : Nat) : State := (((boot w).setV 1 0x1234).setV 2 0x0F0F).setV 0xF 1

theorem test_ldReg : see (fun t => (t.getV 1, t.getV 0xF)) (logicStart 0x8120) = some (0x0F0F, 1) := by decide
theorem test_orReg : see (fun t => (t.getV 1, t.getV 0xF)) (logicStart 0x8121) = some (0x1F3F, 1) := by decide
theorem test_andReg : see (fun t => (t.getV 1, t.getV 0xF)) (logicStart 0x8122) = some (0x0204, 1) := by decide
theorem test_xorReg : see (fun t => (t.getV 1, t.getV 0xF)) (logicStart 0x8123) = some (0x1D3B, 1) := by decide
theorem test_addReg :
    see (fun t => (t.getV 1, t.getV 0xF)) (((boot 0x81F4).setV 1 0xFFFF).setV 0xF 1) = some (0, 1) := by decide
theorem test_addReg_into_VF : see (·.getV 0xF) (((boot 0x8F24).setV 0xF 3).setV 2 4) = some 0 := by decide
theorem test_subReg :
    see (fun t => (t.getV 1, t.getV 0xF)) (((boot 0x8125).setV 1 5).setV 2 7) = some (0xFFFE, 0) := by decide
theorem test_subReg_equal :
    see (fun t => (t.getV 1, t.getV 0xF)) (((boot 0x8125).setV 1 7).setV 2 7) = some (0, 1) := by decide
theorem test_shr :
    see (fun t => (t.getV 1, t.getV 2, t.getV 0xF)) (((boot 0x8126).setV 1 0x105).setV 2 0xAAAA) =
      some (0x82, 0xAAAA, 1) := by decide
theorem test_shr_VF : see (·.getV 0xF) ((boot 0x8F06).setV 0xF 6) = some 0 := by decide
theorem test_subnReg :
    see (fun t => (t.getV 1, t.getV 0xF)) (((boot 0x8127).setV 1 5).setV 2 7) = some (2, 1) := by decide
theorem test_subnReg_borrows :
    see (fun t => (t.getV 1, t.getV 0xF)) (((boot 0x8127).setV 1 7).setV 2 5) = some (0xFFFE, 0) := by decide
theorem test_shl :
    see (fun t => (t.getV 1, t.getV 2, t.getV 0xF)) (((boot 0x812E).setV 1 0x8001).setV 2 0x5555) =
      some (2, 0x5555, 1) := by decide
theorem test_shl_bit_7 : see (fun t => (t.getV 1, t.getV 0xF)) ((boot 0x812E).setV 1 0x80) = some (0x100, 0) := by decide
theorem test_rnd : (after (rndWith 0xB7 3 0x0F State.reset)).getV 3 = 7 := by decide
theorem test_rnd_consumes_one_value :
    (after (rndWith 0xFF 3 0 (State.reset.setV 3 9))).getV 3 = 0 ∧ (after (rndWith 0xFF 3 0 State.reset)).draws = 1 := by
  decide

/-! ### Index and memory (section 2.5) -/

/-- What memory holds at `n` bytes from `a`. -/
def bytesAt (a n : Nat) (s : State) : List Byte := (List.range n).map fun k => Memory.get s.mem (a + k)

theorem test_ldI : see (fun t => (t.i, t.pc)) ((boot 0xA123).setI 0xFFFF) = some (0x123, 0x202) := by decide
theorem test_addIVx : see (·.i) (((boot 0xF21E).setI 0xFFFF).setV 2 2) = some 1 := by decide
theorem test_addIVx_no_flag :
    see (fun t => (t.i, t.getV 0xF)) (((boot 0xF21E).setI 0x0FFF).setV 2 1) = some (0x1000, 0) := by decide
theorem test_ldFVx : see (·.i) ((boot 0xF429).setV 4 13107) = some 0xFFFF := by decide
theorem test_ldFVx_traps : trapsWith 7 ((boot 0xF429).setV 4 13108) = true := by decide
theorem test_ldBVx :
    see (fun t => (bytesAt 0x300 3 t, t.i)) (((boot 0xF533).setI 0x300).setV 5 0x81) = some ([1, 2, 9], 0x300) := by decide
theorem test_ldBVx_traps :
    trapsWith 7 (((boot 0xF533).setI 0x300).setV 5 1000) = true ∧
    trapsWith 2 (((boot 0xF533).setI 0xFFE).setV 5 1000) = true := by decide
theorem test_ldMemVx :
    see (fun t => (bytesAt 0xFFE 2 t, t.i)) ((((boot 0xF155).setI 0xFFE).setV 0 1).setV 1 2) =
      some ([1, 2], 0x1000) := by decide
theorem test_ldMemVx_traps :
    trapsWith 7 (((boot 0xF355).setI 0x300).setV 3 0x1FF) = true ∧
    trapsWith 2 (((boot 0xF255).setI 0xFFE).setV 2 0x100) = true := by decide
theorem test_ldVxMem :
    see (fun t => (t.getV 0, t.getV 1, t.getV 2, t.i))
      (poke 0x300 0xAB (poke 0x301 0xCD ((((boot 0xF165).setI 0x300).setV 0 0xFFFF).setV 2 0xFFFF))) =
      some (0xAB, 0xCD, 0xFFFF, 0x302) ∧
    trapsWith 2 ((boot 0xF065).setI 0x1000) = true := by decide
theorem test_ldVxMem_font :
    see (fun t => (t.v.toList, t.i)) (boot 0xFF65) =
      some ([0xF0, 0x90, 0x90, 0x90, 0xF0, 0x20, 0x60, 0x20, 0x20, 0x70, 0xF0, 0x10, 0xF0, 0x80, 0xF0, 0xF0], 0x10) := by
  decide

/-! ### Frame buffer (section 2.6). A row's bit `cx` is column `cx` -/

/-- The sprite runs past the right edge into the next row; then the faults: `D012` at `I = 0xFFF`, and `x = 57, y = 27`. -/
theorem test_drw_bleeds_and_traps :
    see (fun t => t.fb.toList.take 2) (poke 0x300 0xFF (((boot 0xD011).setI 0x300).setV 0 0x3C)) =
      some [0xF000000000000000, 0xF] ∧
    trapsWith 2 (((boot 0xD012).setI 0xFFF).setV 1 40) = true ∧
    trapsWith 5 (((boot 0xD015).setV 0 57).setV 1 27) = true := by decide
/-- Pixel 1 over cell 0 lit; pixel 0 over it; no rows. -/
theorem test_drw_collides_or_not :
    see (fun t => (t.fb.toList.take 1, t.getV 0xF))
      { poke 0x300 0x80 ((boot 0xD011).setI 0x300) with fb := Vector.replicate 32 1 } = some ([0], 1) ∧
    see (fun t => (t.fb.toList.take 1, t.getV 0xF))
      { poke 0x300 0x40 ((boot 0xD011).setI 0x300) with fb := Vector.replicate 32 1 } = some ([3], 0) ∧
    see (fun t => (t.getV 0xF, t.fault)) ((((boot 0xD010).setV 0 1000).setV 1 1000).setV 0xF 1) =
      some (0, .noFault) := by decide +kernel
theorem test_cls :
    see (·.fb) { boot 0x00E0 with fb := Vector.replicate 32 (BitVec.allOnes 64) } = some State.reset.fb := by decide

/-! ### Keys and timers (section 2.7) -/

/-- One key held down. -/
def holding (k : Nibble) (s : State) : State := s.press k

theorem test_skp : see (·.pc) (holding 5 ((boot 0xE29E).setV 2 5)) = some 0x204 := by decide
theorem test_skp_traps : trapsWith 6 ((boot 0xE29E).setV 2 0x10) = true := by decide
theorem test_sknp : see (·.pc) (holding 5 ((boot 0xE2A1).setV 2 5)) = some 0x202 := by decide
theorem test_sknp_traps : trapsWith 6 ((boot 0xE2A1).setV 2 0x10) = true := by decide
theorem test_ldVxK_waits :
    see (fun t => (t.pc, t.dt, t.st, t.beeps, t.getV 0)) { boot 0xF00A with dt := 5, st := 1 } =
      some (0x200, 4, 0, 1, 0) := by decide
theorem test_ldVxK :
    see (fun t => (t.getV 0, t.pc)) (holding 7 (holding 3 ((boot 0xF00A).setV 0 0xFFFF))) = some (3, 0x202) := by decide
theorem test_ldVxDt : see (fun t => (t.getV 3, t.dt)) ((boot 0xF307).setDt 0x3C) = some (0x3C, 0x3B) := by decide
theorem test_ldDtVx :
    see (fun t => (t.dt, t.st)) (((boot 0xF315).setDt 9).setSt 9) = some (0, 8) ∧
    see (·.dt) ((boot 0xF315).setV 3 0xFFFF) = some 0xFFFE := by decide
theorem test_ldStVx : see (fun t => (t.st, t.beeps)) ((boot 0xF318).setV 3 1) = some (0, 1) := by decide
theorem test_ldStVx_cancels :
    see (fun t => (t.st, t.beeps, t.dt)) (((boot 0xF318).setDt 9).setSt 9) = some (0, 0, 8) := by decide

/-! ### Host transactions (section 2.8) -/

/-- The core after a sequence of transactions from construction. -/
def hosted (ts : List Transaction) : State :=
  match transactAll ts bootSession with
  | .next ss => ss.core
  | _        => { State.reset with fault := .keyRange }

theorem test_load_odd_length :
    (hosted [.load [0x61, 0x07, 0x12], .cycle]).getV 1 = 7 ∧
    fetch (hosted [.load [0x61, 0x07, 0x12], .cycle]) = some 0x1200 := by decide
theorem test_press_release : (hosted [.load [0xF0, 0x0A], .press 4, .release 4, .cycle]).pc = 0x200 := by decide
theorem test_fault_then_reset : hosted [.load [0x00, 0xEE], .cycle, .reset] = State.reset := by decide
theorem test_read_font : State.reset.observe (.mem 4) = 0xF0 ∧ State.reset.observe .pc = 0x200 := by decide
theorem test_parked : (boot 0x1200).parked = true ∧ (boot 0x1202).parked = false := by decide

/-! ### Witnesses: for each statement with hypotheses, inputs that meet them all, at the edges of each clause -/

/-- `ResetState`: each clause about memory and pixels at its first and last index. -/
theorem witness_ResetState :
    font[0]? = some 0xF0 ∧ font[79]? = some 0x80 ∧ font[80]? = none ∧ Memory.read State.reset.mem 79 = some 0x80 ∧
    Memory.read State.reset.mem 80 = some 0 ∧ Memory.read State.reset.mem 4095 = some 0 ∧
    Memory.read State.reset.mem 4096 = none ∧ FrameBuffer.read State.reset.fb 2047 = false := by decide

/-- `LoadCopiesTheImage`: the longest image, the empty one, one byte too many, and a phase that is not `fresh`. -/
theorem witness_LoadCopiesTheImage :
    Memory.wf State.reset.mem = true ∧ (List.replicate 3584 (0xA5 : Byte)).length ≤ 3584 ∧ ([] : List Byte).length ≤ 3584 ∧
    3584 < (List.replicate 3585 (0xA5 : Byte)).length ∧ Phase.loaded ≠ .fresh ∧ Phase.running ≠ .fresh := by
  simp only [List.length_replicate]; decide

theorem reset_inv : State.reset.Inv := ⟨by decide, by decide⟩

/-- A running core that calls: its memory lists the two bytes of the word. -/
theorem boot_call_inv : (boot 0x2300).Inv := ⟨by decide, by decide⟩

/-- `StepKeepsInvariant`. -/
theorem witness_StepKeepsInvariant :
    (boot 0x2300).Inv ∧ step (boot 0x2300) = .next (after (step (boot 0x2300))) := ⟨boot_call_inv, rfl⟩

/-- `TransactionsKeepInvariant`. -/
theorem witness_TransactionsKeepInvariant :
    bootSession.core.Inv ∧ transact (.press 4) bootSession = .next ⟨State.reset.press 4, .fresh⟩ := ⟨reset_inv, rfl⟩

/-- `HaltedCycleDoesNothing`. -/
theorem witness_HaltedCycleDoesNothing : { boot 0x6107 with fault := .valueRange }.fault.code ≠ 0 := by decide

/-- `FetchReadsTwoBytes`: both sides of the end of memory, and a fetch that wraps in no way at `PC = 0xFFFF`. -/
theorem witness_FetchReadsTwoBytes :
    (State.reset.setPc 0xFFE).pc.toNat ≤ 0xFFE ∧
    0xFFE < (State.reset.setPc 0xFFF).pc.toNat ∧ (State.reset.setPc 0xFFF).fault = .noFault ∧
    0xFFE < (State.reset.setPc 0xFFFF).pc.toNat := by decide

/-- A word of `boot` is at `PC`. -/
theorem atPc_boot_ldI : AtPc (.ldI 0x123) (boot 0xA123) := ⟨0xA1, 0x23, by decide, by decide, by decide⟩

/-- `StepRunsDecodedInstruction`, for an instruction that completes. -/
theorem witness_StepRunsDecodedInstruction :
    (boot 0xA123).fault = .noFault ∧ AtPc (.ldI 0x123) (boot 0xA123) ∧
    exec (.ldI 0x123) (boot 0xA123) = .next (after (exec (.ldI 0x123) (boot 0xA123))) := ⟨rfl, atPc_boot_ldI, rfl⟩

/-- `StepRunsDecodedInstruction`, for an instruction that faults. -/
theorem witness_StepRunsDecodedInstruction_fault :
    (boot 0x00EE).fault = .noFault ∧ AtPc .ret (boot 0x00EE) ∧
    exec .ret (boot 0x00EE) = .next { boot 0x00EE with fault := .stackUnderflow } :=
  ⟨rfl, ⟨0x00, 0xEE, by decide, by decide, by decide⟩, rfl⟩

/-- `OnlyResetLeavesTheHaltedState`: a press, a cycle and a load of a halted core. -/
theorem witness_OnlyResetLeavesTheHaltedState :
    let halted : State := { State.reset with fault := .memRange }
    halted.fault ≠ .noFault ∧ Transaction.press 1 ≠ .reset ∧ transact .reset ⟨halted, .running⟩ = .next bootSession ∧
    transact (.press 1) ⟨halted, .running⟩ = .next ⟨halted.press 1, .running⟩ ∧
    transact .cycle ⟨halted, .loaded⟩ = .next ⟨halted, .running⟩ ∧
    transact (.load []) ⟨halted, .fresh⟩ = .next ⟨halted, .loaded⟩ :=
  ⟨by decide, by decide, rfl, rfl, rfl, rfl⟩

/-- `UnrecognisedOpcodeIsNoOperation`. -/
theorem witness_UnrecognisedOpcodeIsNoOperation :
    (boot 0x8128).fault = .noFault ∧ fetch (boot 0x8128) = some 0x8128 ∧ decode 0x8128 = .unrecognised 0x8128 := by decide

/-- `TimersDecayAfterTheHandler`, with the sound timer at 1 and at 0. -/
theorem witness_TimersDecayAfterTheHandler :
    (boot 0xA123).fault = .noFault ∧ AtPc (.ldI 0x123) (boot 0xA123) ∧
    (∀ w : Word, exec (.ldI 0x123) ((boot 0xA123).setSt w) =
      .next ((((boot 0xA123).setSt w).setI 0x123).setPc 0x202) ∧
      ((((boot 0xA123).setSt w).setI 0x123).setPc 0x202).fault = .noFault) := ⟨rfl, atPc_boot_ldI, fun _ => ⟨rfl, rfl⟩⟩

/-- `AtMostOneBeepPerCycle`: a cycle that beeps. -/
theorem witness_AtMostOneBeepPerCycle :
    step ((boot 0xA123).setSt 1) = .next (after (step ((boot 0xA123).setSt 1))) ∧
    (after (step ((boot 0xA123).setSt 1))).beeps = 1 := ⟨rfl, rfl⟩

/-- `FaultsArePrecise`. -/
theorem witness_FaultsArePrecise :
    step (boot 0x00EE) = .next (after (step (boot 0x00EE))) ∧ (after (step (boot 0x00EE))).fault ≠ .noFault :=
  ⟨rfl, by decide⟩

/-- `FaultsAreThoseOfTheTable`. -/
theorem witness_FaultsAreThoseOfTheTable :
    (boot 0x00EE).fault = .noFault ∧ step (boot 0x00EE) = .next (after (step (boot 0x00EE))) := ⟨rfl, rfl⟩

/-- `PcChangesAsListed`: a call, and a return at the highest entry that a call pushes. -/
theorem witness_PcChangesAsListed :
    (boot 0x2300).Inv ∧ (boot 0x2300).fault = .noFault ∧ step (boot 0x2300) = .next (after (step (boot 0x2300))) ∧
    (after (step (boot 0x2300))).fault = .noFault ∧ (stacked 1 0xFFE (boot 0x00EE)).Inv :=
  ⟨boot_call_inv, rfl, rfl, rfl, ⟨by decide, by decide⟩⟩

/-- `RegisterWriters`, `StackWriters`, `TimerWriters`, `MemoryWriters`: an instruction whose outcome is a next state. -/
theorem witness_RegisterWriters :
    exec (.addReg 1 2) State.reset = .next (after (exec (.addReg 1 2) State.reset)) ∧
    mayWriteV (.addReg 1 2) 2 = false ∧ mayWriteV (.ldVxMem 14) 15 = false := ⟨rfl, rfl, rfl⟩

/-- `IndexWriters`. -/
theorem witness_IndexWriters :
    exec (.ldI 0x123) State.reset = .next (after (exec (.ldI 0x123) State.reset)) ∧
    (after (exec (.ldI 0x123) State.reset)).i ≠ State.reset.i := ⟨rfl, by decide⟩

/-- `StackWriters`: the pointer and an entry change. -/
theorem witness_StackWriters :
    exec (.call 0x300) State.reset = .next (after (exec (.call 0x300) State.reset)) ∧
    (after (exec (.call 0x300) State.reset)).sp ≠ State.reset.sp ∧
    (after (exec (.call 0x300) State.reset)).stack[(0 : Fin 16).val] ≠ State.reset.stack[(0 : Fin 16).val] :=
  ⟨rfl, by decide, by decide⟩

/-- `TimerWriters`: each timer changes. -/
theorem witness_TimerWriters :
    exec (.ldDtVx 1) (State.reset.setV 1 9) = .next (after (exec (.ldDtVx 1) (State.reset.setV 1 9))) ∧
    (after (exec (.ldDtVx 1) (State.reset.setV 1 9))).dt ≠ (State.reset.setV 1 9).dt ∧
    (after (exec (.ldStVx 1) (State.reset.setV 1 9))).st ≠ (State.reset.setV 1 9).st := ⟨rfl, by decide, by decide⟩

/-- `CyclesNeverWriteKeys`, `EveryStepAnswersANextState`: a step. -/
theorem witness_CyclesNeverWriteKeys :
    step ((boot 0xF00A).press 4) = .next (after (step ((boot 0xF00A).press 4))) := rfl

/-- `MemoryWriters`: the addresses on both sides of the three bytes stored. -/
theorem witness_MemoryWriters :
    Memory.wf (State.reset.setI 0x300).mem = true ∧
    exec (.ldBVx 1) (State.reset.setI 0x300) = .next (after (exec (.ldBVx 1) (State.reset.setI 0x300))) ∧
    0x2FF ∉ storedAddresses (.ldBVx 1) (State.reset.setI 0x300) ∧
    0x303 ∉ storedAddresses (.ldBVx 1) (State.reset.setI 0x300) := ⟨by decide, rfl, by decide, by decide⟩

/-- `FrameBufferWriters`. -/
theorem witness_FrameBufferWriters :
    exec .cls { State.reset with fb := Vector.replicate 32 1 } = .next (State.reset.setPc 0x202) ∧
    (State.reset.setPc 0x202).fb ≠ Vector.replicate 32 1 := ⟨rfl, by decide⟩

/-- `CallPushesItsOwnAddress`: depth 15 and depth 16. -/
theorem witness_CallPushesItsOwnAddress :
    (stacked 15 0x200 State.reset).sp.val ≠ 16 ∧ (stacked 16 0x200 State.reset).sp.val = 16 := by decide

/-- `ReturnGoesPastTheCall`: depth 16, depth 1 with the highest entry a call pushes, depth 0. -/
theorem witness_ReturnGoesPastTheCall :
    (stacked 16 0x200 State.reset).sp.val ≠ 0 ∧ (stacked 1 0xFFE State.reset).sp.val ≠ 0 ∧
    (0xFFE : Word).toNat ≤ 0xFFE ∧ State.reset.sp.val = 0 := by decide

/-- `ReturnUndoesCall`: the deepest call, at the last address. -/
theorem witness_ReturnUndoesCall :
    (stacked 15 0x200 (State.reset.setPc 0xFFE)).sp.val ≠ 16 ∧
    (stacked 15 0x200 (State.reset.setPc 0xFFE)).pc.toNat ≤ 0xFFE := by decide

/-- `PcMoves`, in the conclusions that use it: its one premise at its edge. -/
theorem witness_PcMoves : (State.reset.setPc 0xFFE).pc.toNat ≤ 0xFFE := by decide

/-- `JumpWithOffset`: a sum of 65535 and of 65536. -/
theorem witness_JumpWithOffset :
    (0xFFF : Addr12).toNat + ((State.reset.setV 0 0xF000).getV 0).toNat ≤ 0xFFFF ∧
    0xFFFF < (0xFFF : Addr12).toNat + ((State.reset.setV 0 0xF001).getV 0).toNat := by decide

/-- `AddSetsCarry`, `SubtractSetsNotBorrow`, `ShiftsByOne`: a destination that is not `VF`, beside one that is. -/
theorem witness_AddSetsCarry : (0xE : Reg) ≠ 0xF ∧ ¬ (0xF : Reg) ≠ 0xF := by decide

/-- `FontAddressIsFiveTimes`: 13107 and 13108. -/
theorem witness_FontAddressIsFiveTimes :
    ((State.reset.setV 4 13107).getV 4).toNat * 5 ≤ 65535 ∧ 65535 < ((State.reset.setV 4 13108).getV 4).toNat * 5 := by
  decide

/-- `StoreDecimalDigits`: 999 and 1000, `I` at `0xFFD` and `0xFFE`. -/
theorem witness_StoreDecimalDigits :
    let fits (n : Word) := (State.reset.setI 0xFFD).setV 5 n
    (Memory.wf (fits 999).mem = true ∧ (fits 999).i.toNat + 2 ≤ 0xFFF ∧ ((fits 999).getV 5).toNat ≤ 999) ∧
    (Memory.wf (fits 1000).mem = true ∧ (fits 1000).i.toNat + 2 ≤ 0xFFF ∧ 999 < ((fits 1000).getV 5).toNat) ∧
    0xFFF < (State.reset.setI 0xFFE).i.toNat + 2 := by decide

/-- `StoreRegisters`: 255 and 256 in the last register, the last byte at `0xFFF` and at `0x1000`. -/
theorem witness_StoreRegisters :
    let fits (n : Word) := (State.reset.setI 0xFFE).setV 1 n
    (Memory.wf (fits 255).mem = true ∧ (fits 255).i.toNat + (1 : Reg).toNat ≤ 0xFFF ∧
      ∀ k : Reg, k ≤ 1 → ((fits 255).getV k).toNat ≤ 255) ∧
    (Memory.wf (fits 256).mem = true ∧ (fits 256).i.toNat + (1 : Reg).toNat ≤ 0xFFF ∧
      ∃ k : Reg, k ≤ 1 ∧ 255 < ((fits 256).getV k).toNat) ∧
    0xFFF < (State.reset.setI 0xFFF).i.toNat + (1 : Reg).toNat := by decide

/-- `LoadRegisters`: `V[15]` from `0xFFF` and from `0x1000`; a register in the list and one above it. -/
theorem witness_LoadRegisters :
    (State.reset.setI 0xFF0).i.toNat + (15 : Reg).toNat ≤ 0xFFF ∧ 0xFFF < (State.reset.setI 0xFF1).i.toNat + (15 : Reg).toNat ∧
    (1 : Reg) ≤ 1 ∧ (1 : Reg) < 2 := by decide

/-- `StoreThenLoadRoundTrips`. -/
theorem witness_StoreThenLoadRoundTrips :
    let s := ((State.reset.setI 0xFFE).setV 0 0x11).setV 1 0xFF
    Memory.wf s.mem = true ∧ s.fault = .noFault ∧ exec (.ldMemVx 1) s = .next (after (exec (.ldMemVx 1) s)) ∧
    (after (exec (.ldMemVx 1) s)).fault = .noFault := ⟨by decide, rfl, rfl, rfl⟩

/-- `FetchSeesWhatIsStored`: the last address with a whole word, and the addresses on both sides of a word. -/
theorem witness_FetchSeesWhatIsStored :
    Memory.wf (State.reset.setPc 0xFFE).mem = true ∧ (State.reset.setPc 0xFFE).pc.toNat ≤ 0xFFE ∧
    0xFFD ≠ (State.reset.setPc 0xFFE).pc.toNat ∧ 0xFFD ≠ (State.reset.setPc 0xFFE).pc.toNat + 1 := by decide

/-- The premises of the three clauses of `DrawXorsTheSprite`, for registers 0 and 1. -/
def drawFits (n : Nibble) (s : State) : Bool :=
  decide (n.toNat = 0 ∨ (s.i.toNat + n.toNat - 1 ≤ 0xFFF ∧
    ((s.getV 0).toNat + 7) + ((s.getV 1).toNat + n.toNat - 1) * 64 ≤ 2047))

/-- `DrawXorsTheSprite`, first clause: no rows; the last cell 2047; the last sprite byte at `0xFFF`. -/
theorem witness_DrawXorsTheSprite :
    drawFits 0 ((State.reset.setV 0 0xFFFF).setI 0xFFFF) = true ∧
    drawFits 5 ((State.reset.setV 0 56).setV 1 27) = true ∧
    drawFits 15 (State.reset.setI 0xFF1) = true := by decide

/-- `DrawXorsTheSprite`, second and third clause: the sprite's last byte at `0x1000`; the last cell 2048. -/
theorem witness_DrawXorsTheSprite_faults :
    ((15 : Nibble).toNat ≠ 0 ∧ 0xFFF < (State.reset.setI 0xFF2).i.toNat + (15 : Nibble).toNat - 1) ∧
    (let s := (State.reset.setV 0 57).setV 1 27
     (5 : Nibble).toNat ≠ 0 ∧ s.i.toNat + (5 : Nibble).toNat - 1 ≤ 0xFFF ∧
       2047 < ((s.getV 0).toNat + 7) + ((s.getV 1).toNat + (5 : Nibble).toNat - 1) * 64) := by decide

/-- `DrawXorsTheSprite`: one collision, one pixel, in the terms of its conclusion. -/
theorem witness_DrawXorsTheSprite_collision :
    let s := { State.reset with fb := Vector.replicate 32 1 }
    0 < (5 : Nibble).toNat ∧ spritePixel s 0 0 = true ∧
    FrameBuffer.read s.fb (((s.getV 0).toNat + 0) + ((s.getV 1).toNat + 0) * 64) = true := by decide

/-- `DrawingTwiceRestores`: the digit 0 on an empty frame buffer. -/
theorem witness_DrawingTwiceRestores :
    State.reset.fault = .noFault ∧
    exec (.drw 0 1 5) State.reset = .next (after (exec (.drw 0 1 5) State.reset)) ∧
    (after (exec (.drw 0 1 5) State.reset)).fault = .noFault ∧
    (after (exec (.drw 0 1 5) State.reset)).getV 0 = State.reset.getV 0 ∧
    (after (exec (.drw 0 1 5) State.reset)).getV 1 = State.reset.getV 1 ∧
    (∀ k ∈ spriteArea 0 0 5, FrameBuffer.read State.reset.fb k = false) := ⟨rfl, rfl, rfl, rfl, rfl, by decide⟩

/-- `DrawingTwiceRestores`, with both coordinates in `VF`: 0, and no collision. -/
theorem witness_DrawingTwiceRestores_VF :
    exec (.drw 0xF 0xF 5) State.reset = .next (after (exec (.drw 0xF 0xF 5) State.reset)) ∧
    (after (exec (.drw 0xF 0xF 5) State.reset)).fault = .noFault ∧
    (after (exec (.drw 0xF 0xF 5) State.reset)).getV 0xF = State.reset.getV 0xF := ⟨rfl, rfl, by decide⟩

/-- `SkipsOnKeys`: key 15 and key 16. -/
theorem witness_SkipsOnKeys :
    ((State.reset.setV 2 15).getV 2).toNat < 16 ∧ 15 < ((State.reset.setV 2 16).getV 2).toNat := by decide

/-- `WaitForKey`: no key; key 15 alone; key 0 with key 1. -/
theorem witness_WaitForKey :
    (∀ k : Fin 16, State.reset.keys[k.val] = false) ∧
    ((State.reset.press 15).keys[(15 : Fin 16).val] = true ∧
      ∀ j : Fin 16, j.val < 15 → (State.reset.press 15).keys[j.val] = false) ∧
    (((State.reset.press 0).press 1).keys[(0 : Fin 16).val] = true ∧
      ∀ j : Fin 16, j.val < 0 → ((State.reset.press 0).press 1).keys[j.val] = false) := by decide

/-- `WaitForKey`, the clause about a whole cycle. -/
theorem witness_WaitForKey_cycle :
    (boot 0xF00A).fault = .noFault ∧ AtPc (.ldVxK 0) (boot 0xF00A) ∧ ∀ k : Fin 16, (boot 0xF00A).keys[k.val] = false :=
  ⟨rfl, ⟨0xF0, 0x0A, by decide, by decide, by decide⟩, by decide⟩

/-- `ReadDelayTimer`, the clause about a whole cycle: the timer at 60, at 1 and at 0. -/
theorem witness_ReadDelayTimer :
    ∀ w ∈ [(60 : Word), 1, 0], ((boot 0xF307).setDt w).fault = .noFault ∧ AtPc (.ldVxDt 3) ((boot 0xF307).setDt w) :=
  fun _ _ => ⟨rfl, 0xF3, 0x07, rfl, rfl, by decide⟩

/-- `SetTimerThenDecay`: the two clauses about a whole cycle, at a sound timer set to 1. -/
theorem witness_SetTimerThenDecay :
    (boot 0xF315).fault = .noFault ∧ AtPc (.ldDtVx 3) (boot 0xF315) ∧
    ((boot 0xF318).setV 3 1).fault = .noFault ∧ AtPc (.ldStVx 3) ((boot 0xF318).setV 3 1) :=
  ⟨rfl, ⟨0xF3, 0x15, by decide, by decide, by decide⟩, rfl, ⟨0xF3, 0x18, by decide, by decide, by decide⟩⟩

/-- `EncodeOfDecode`. -/
theorem witness_EncodeOfDecode : decode 0xD12F = .instr (.drw 1 2 15) ∧ encode (.drw 1 2 15) = 0xD12F := by decide

/-- `DecoderAgreesWithTheTable`: a word that matches a row, and one that matches none. -/
theorem witness_DecoderAgreesWithTheTable :
    (⟨"SUBN_Vx__Vy", 0x8007, 0xF00F⟩ : OpRow) ∈ opcodeTable ∧
    rowMatches ⟨"SUBN_Vx__Vy", 0x8007, 0xF00F⟩ 0x8127 = true ∧ recognised 0x8128 = false := by decide

end Sys2Proof.Tests
end

/-! SUPPORT. What a handler and a host transaction can do, said once as two inductive relations (`Effect` for `exec`,
`HostEffect` for `transact`), then the statements about the state that follow from them by cases: the values at reset,
the invariant, who writes which piece of state, and where `PC` goes. -/

namespace Sys2Proof.Machine

/-! ### What a handler can do -/

/-- Every way in which a handler can leave the state: it raises a fault, moves `PC` alone, writes the registers that
R23 allows it, or replaces the other pieces of state that a case names. What a case does not name is unchanged. -/
inductive Effect (s : State) : Instr → State → Prop
  /-- A fault, which writes its code and nothing else (R251). -/
  | fault {i : Instr} (c : FaultCode) (hc : c ≠ .noFault) : Effect s i (takeFault c s)
  /-- A jump, a skip, or the wait of `FX0A`. -/
  | flow {i : Instr} (p : Word) (hp : s.pc.toNat ≤ 0xFFE → p.toNat = pcAfter i s) : Effect s i (s.setPc p)
  /-- A write of general registers; `draws` counts on in `CXNN`. -/
  | regs {i : Instr} (v : Vector Word 16) (draws : Nat)
      (hv : ∀ k : Reg, mayWriteV i k = false → v[k.toNat] = s.getV k) (hp : pcAfter i s = s.pc.toNat + 2) :
      Effect s i { s with v := v, draws := draws, pc := s.pc + 2 }
  /-- `ANNN`, `FX1E`, `FX29`. -/
  | index {i : Instr} (w : Word) (hi : (∃ nnn, i = .ldI nnn) ∨ ∃ x, i = .addIVx x ∨ i = .ldFVx x)
      (hp : pcAfter i s = s.pc.toNat + 2) : Effect s i { s with i := w, pc := s.pc + 2 }
  | ret (hs : 0 < s.sp.val) :
      Effect s .ret { s with sp := ⟨s.sp.val - 1, by omega⟩, pc := s.stack[s.sp.val - 1]'(by omega) + 2 }
  | call (nnn : Addr12) (hs : s.sp.val < 16) :
      Effect s (.call nnn)
        { s with stack := s.stack.set s.sp.val s.pc, sp := ⟨s.sp.val + 1, by omega⟩, pc := addrWord nnn }
  | cls : Effect s .cls { s with fb := FrameBuffer.clear, pc := s.pc + 2 }
  | drw (x y : Reg) (n : Nibble) (fb : FrameBuffer) (w : Word) :
      Effect s (.drw x y n) { s with fb := fb, v := s.v.set flagReg.toNat w (by decide), pc := s.pc + 2 }
  | ldDtVx (x : Reg) : Effect s (.ldDtVx x) { s with dt := s.getV x, pc := s.pc + 2 }
  | ldStVx (x : Reg) : Effect s (.ldStVx x) { s with st := s.getV x, pc := s.pc + 2 }
  | ldBVx (x : Reg) (m : Memory)
      (hm : Memory.storeBytes s.mem s.i.toNat (decimalDigits (s.getV x).toNat) = some m) :
      Effect s (.ldBVx x) { s with mem := m, pc := s.pc + 2 }
  | ldMemVx (x : Reg) (m : Memory)
      (hm : Memory.storeBytes s.mem s.i.toNat ((s.regsUpTo x).map wordByte) = some m) :
      Effect s (.ldMemVx x) { s with mem := m, i := BitVec.ofNat 16 (s.i.toNat + x.toNat + 1), pc := s.pc + 2 }
  | ldVxMem (x : Reg) (v : Vector Word 16)
      (hv : ∀ k : Reg, mayWriteV (.ldVxMem x) k = false → v[k.toNat] = s.getV k) :
      Effect s (.ldVxMem x) { s with v := v, i := BitVec.ofNat 16 (s.i.toNat + x.toNat + 1), pc := s.pc + 2 }

/-- A `PC` that a fetch allows does not wrap when the cycle adds 2 (R26). -/
theorem toNat_add_two {p : Word} (h : p.toNat ≤ 0xFFE) : (p + 2).toNat = p.toNat + 2 := by
  bv_omega

section Handlers

variable {i : Instr} {s t : State}

theorem effect_of_raise {c : FaultCode} (hc : c ≠ .noFault) (h : raise c s = .next t) : Effect s i t := by
  rw [raise_next] at h
  exact h ▸ .fault c hc

/-- A handler that writes one register and advances. -/
theorem effect_of_setV {x : Reg} {w : Word} (hx : mayWriteV i x = true) (hp : pcAfter i s = s.pc.toNat + 2)
    (h : advance (s.setV x w) = .next t) : Effect s i t := by
  rw [advance_next] at h
  subst h
  refine .regs _ s.draws (fun k hk => ?_) hp
  exact s.getV_setV_ne w fun e => by simp [e, hx] at hk

/-- A handler that writes a result and the flag and advances (R173). -/
theorem effect_of_setResult {x : Reg} {r : Word} {f : Bool} (hx : mayWriteV i x = true)
    (hf : mayWriteV i flagReg = true) (hp : pcAfter i s = s.pc.toNat + 2)
    (h : advance (s.setResult x r f) = .next t) : Effect s i t := by
  rw [advance_next] at h
  subst h
  refine .regs _ s.draws (fun k hk => ?_) hp
  have hkf : k ≠ flagReg := fun e => by simp [e, hf] at hk
  have hkx : k ≠ x := fun e => by simp [e, hx] at hk
  exact (s.getV_setResult x k r f).trans (by simp [hkf, hkx])

/-- A skip moves `PC` by 4 where its condition holds, else by 2 (R126). -/
theorem effect_of_skip {c : Bool} (hp : pcAfter i s = if c then s.pc.toNat + 4 else s.pc.toNat + 2)
    (h : advance (skipIf c s) = .next t) : Effect s i t := by
  rw [advance_next] at h
  subst h
  cases c with
  | true =>
    refine .flow (s.pc + 2 + 2) fun hpc => ?_
    rw [hp, if_pos rfl]
    bv_omega
  | false => exact .flow (s.pc + 2) fun hpc => hp ▸ toNat_add_two hpc

theorem beq_immWord (w : Word) (nn : Byte) : (w == immWord nn) = decide (w.toNat = nn.toNat) := by
  rw [Bool.eq_iff_iff]
  simp [immWord, ← BitVec.toNat_inj]
  omega

theorem execRet_effect (h : execRet s = .next t) : Effect s .ret t := by
  unfold execRet at h
  cases hq : s.pop with
  | none => rw [hq] at h; exact effect_of_raise (by decide) h
  | some q =>
    obtain ⟨e, s'⟩ := q
    obtain ⟨hs, rfl, rfl⟩ := pop_some hq
    simp only [hq, advance_next] at h
    exact h ▸ .ret hs

theorem execCall_effect {nnn : Addr12} (h : execCall nnn s = .next t) : Effect s (.call nnn) t := by
  unfold execCall at h
  cases hq : s.push s.pc with
  | none => rw [hq] at h; exact effect_of_raise (by decide) h
  | some s' =>
    obtain ⟨hs, rfl⟩ := push_some hq
    simp only [hq, stay_next] at h
    exact h ▸ .call nnn hs

theorem execJpV0_effect {nnn : Addr12} (h : execJpV0 nnn s = .next t) : Effect s (.jpV0 nnn) t := by
  simp only [execJpV0] at h
  split_ifs at h with hsum
  · exact effect_of_raise (by decide) h
  · rw [stay_next] at h
    refine h ▸ .flow _ fun _ => ?_
    simp only [BitVec.toNat_ofNat, pcAfter]
    omega

theorem execDrw_effect {x y : Reg} {n : Nibble} (h : execDrw x y n s = .next t) : Effect s (.drw x y n) t := by
  unfold execDrw at h
  split at h
  · exact effect_of_raise (by decide) h
  · split_ifs at h
    · rw [advance_next] at h
      exact h ▸ .drw x y n _ _
    · exact effect_of_raise (by decide) h

theorem execSkp_effect {x : Reg} (h : execSkp x s = .next t) : Effect s (.skp x) t := by
  unfold execSkp at h
  cases hk : s.keyOf (s.getV x) with
  | none => rw [hk] at h; exact effect_of_raise (by decide) h
  | some down =>
    rw [hk] at h
    refine effect_of_skip ?_ h
    rw [State.keyOf] at hk
    cases down <;> simp [pcAfter, hk]

theorem execSknp_effect {x : Reg} (h : execSknp x s = .next t) : Effect s (.sknp x) t := by
  unfold execSknp at h
  cases hk : s.keyOf (s.getV x) with
  | none => rw [hk] at h; exact effect_of_raise (by decide) h
  | some down =>
    rw [hk] at h
    refine effect_of_skip ?_ h
    rw [State.keyOf] at hk
    cases down <;> simp [pcAfter, hk]

theorem execLdVxK_effect {x : Reg} (h : execLdVxK x s = .next t) : Effect s (.ldVxK x) t := by
  unfold execLdVxK at h
  cases hk : s.lowestKey with
  | none =>
    simp only [hk, stay_next] at h
    subst h
    have hup := (lowestKey_none t).mp hk
    exact .flow t.pc fun _ => by simp [pcAfter, hup]
  | some k =>
    rw [hk] at h
    obtain ⟨hlt, hdown, -⟩ := lowestKey_some.mp hk
    have hex : ∃ j : Fin 16, s.keys[j.val] = true := ⟨⟨k, hlt⟩, hdown⟩
    exact effect_of_setV (by simp [mayWriteV]) (if_pos hex) h

theorem execRnd_effect {x : Reg} {nn : Byte} (h : execRnd x nn s = .next t) : Effect s (.rnd x nn) t := by
  rw [execRnd, rndWith, advance_next] at h
  subst h
  refine .regs _ (s.draws + 1) (fun k hk => ?_) rfl
  exact s.getV_setV_ne _ (by simpa [mayWriteV] using hk)

theorem execLdFVx_effect {x : Reg} (h : execLdFVx x s = .next t) : Effect s (.ldFVx x) t := by
  simp only [execLdFVx] at h
  split_ifs at h
  · exact effect_of_raise (by decide) h
  · rw [advance_next] at h
    exact h ▸ .index _ (.inr ⟨x, .inr rfl⟩) rfl

theorem execLdBVx_effect {x : Reg} (h : execLdBVx x s = .next t) : Effect s (.ldBVx x) t := by
  simp only [execLdBVx] at h
  split at h
  · exact effect_of_raise (by decide) h
  next m hm =>
    split_ifs at h
    · exact effect_of_raise (by decide) h
    · rw [advance_next] at h
      exact h ▸ .ldBVx x m hm

theorem execLdMemVx_effect {x : Reg} (h : execLdMemVx x s = .next t) : Effect s (.ldMemVx x) t := by
  unfold execLdMemVx at h
  split at h
  · exact effect_of_raise (by decide) h
  next m hm =>
    split_ifs at h
    · exact effect_of_raise (by decide) h
    · rw [advance_next] at h
      exact h ▸ .ldMemVx x m hm

theorem execLdVxMem_effect {x : Reg} (h : execLdVxMem x s = .next t) : Effect s (.ldVxMem x) t := by
  unfold execLdVxMem at h
  split at h
  · exact effect_of_raise (by decide) h
  next bytes hbytes =>
    rw [advance_next] at h
    subst h
    refine .ldVxMem x _ fun k hk => ?_
    have hlen : bytes.length ≤ k.toNat := by
      rw [loadBytes_eq, Option.ite_none_right_eq_some, Option.some.injEq] at hbytes
      obtain ⟨-, rfl⟩ := hbytes
      simpa [mayWriteV, BitVec.lt_def, Nat.succ_le_iff] using hk
    exact (s.getV_loadRegs bytes k).trans (by rw [List.getElem?_eq_none hlen])

/-- Every state that a handler answers is one of its effects. -/
theorem exec_effect (h : exec i s = .next t) : Effect s i t := by
  cases i with
  | cls => exact (advance_next _ _).mp h ▸ .cls
  | ret => exact execRet_effect h
  | jp nnn => exact (stay_next _ _).mp h ▸ .flow _ fun _ => by simp [addrWord, pcAfter]; omega
  | call nnn => exact execCall_effect h
  | seImm x nn => exact effect_of_skip (by simp [pcAfter, beq_immWord]) h
  | sneImm x nn => exact effect_of_skip (by simp [pcAfter, bne, beq_immWord]) h
  | seReg x y => exact effect_of_skip (by simp [pcAfter]) h
  | sneReg x y => exact effect_of_skip (by simp [pcAfter]) h
  | ldImm x nn => exact effect_of_setV (by simp [mayWriteV]) rfl h
  | addImm x nn => exact effect_of_setV (by simp [mayWriteV]) rfl h
  | ldReg x y => exact effect_of_setV (by simp [mayWriteV]) rfl h
  | orReg x y => exact effect_of_setV (by simp [mayWriteV]) rfl h
  | andReg x y => exact effect_of_setV (by simp [mayWriteV]) rfl h
  | xorReg x y => exact effect_of_setV (by simp [mayWriteV]) rfl h
  | addReg x y => exact effect_of_setResult (by simp [mayWriteV]) (by simp [mayWriteV, flagReg]) rfl h
  | subReg x y => exact effect_of_setResult (by simp [mayWriteV]) (by simp [mayWriteV, flagReg]) rfl h
  | shr x y => exact effect_of_setResult (by simp [mayWriteV]) (by simp [mayWriteV, flagReg]) rfl h
  | subnReg x y => exact effect_of_setResult (by simp [mayWriteV]) (by simp [mayWriteV, flagReg]) rfl h
  | shl x y => exact effect_of_setResult (by simp [mayWriteV]) (by simp [mayWriteV, flagReg]) rfl h
  | ldI nnn => exact (advance_next _ _).mp h ▸ .index _ (.inl ⟨nnn, rfl⟩) rfl
  | jpV0 nnn => exact execJpV0_effect h
  | rnd x nn => exact execRnd_effect h
  | drw x y n => exact execDrw_effect h
  | skp x => exact execSkp_effect h
  | sknp x => exact execSknp_effect h
  | ldVxDt x => exact effect_of_setV (by simp [mayWriteV]) rfl h
  | ldVxK x => exact execLdVxK_effect h
  | ldDtVx x => exact (advance_next _ _).mp h ▸ .ldDtVx x
  | ldStVx x => exact (advance_next _ _).mp h ▸ .ldStVx x
  | addIVx x => exact (advance_next _ _).mp h ▸ .index _ (.inr ⟨x, .inl rfl⟩) rfl
  | ldFVx x => exact execLdFVx_effect h
  | ldBVx x => exact execLdBVx_effect h
  | ldMemVx x => exact execLdMemVx_effect h
  | ldVxMem x => exact execLdVxMem_effect h

end Handlers

/-! ### What a step and a transaction can do -/

/-- An unrecognised word moves `PC` and nothing else (R130). -/
theorem execUnrecognised_next {s t : State} : execUnrecognised s = .next t ↔ t = s.setPc (s.pc + 2) :=
  advance_next s t

/-- A halted core does nothing (R121). -/
theorem step_of_halted {s t : State} (hs : s.fault ≠ .noFault) (h : step s = .next t) : t = s := by
  obtain ⟨-, ht⟩ | ⟨h0, -, -⟩ | ⟨w, u, h0, -, -, -⟩ := step_cases h
  · exact ht
  · exact absurd h0 hs
  · exact absurd h0 hs

/-- What holds at the start of a cycle holds at its end, if every fault, the move of `PC`, the decay and every handler
that runs after a fetch keep it. -/
theorem step_keeps {P : State → Prop} {s t : State} (hfault : ∀ c, P (takeFault c s)) (hpc : P (s.setPc (s.pc + 2)))
    (hexec : ∀ i u, s.pc.toNat ≤ 0xFFE → Effect s i u → P u) (hdecay : ∀ u, P u → P (decay u)) (hs : P s)
    (h : step s = .next t) : P t := by
  obtain ⟨-, rfl⟩ | ⟨-, -, rfl⟩ | ⟨w, u, -, hf, hrun, rfl⟩ := step_cases h
  · exact hs
  · exact hfault _
  · have hu : P u := by
      obtain ⟨i, -, hi⟩ | ⟨w', -, hw⟩ := hrun
      · exact hexec i u ((fetch_some s w).mp hf).1 (exec_effect hi)
      · exact execUnrecognised_next.mp hw ▸ hpc
    split_ifs
    · exact hdecay u hu
    · exact hu

/-- What each transaction does to the core, where it is answered (R270 to R276). -/
inductive HostEffect (s : State) : Transaction → State → Prop
  | reset : HostEffect s .reset s.resetCore
  | load (image : List Byte) (m : Memory) (hm : Memory.storeBytes s.mem Config.progStart image = some m) :
      HostEffect s (.load image) (s.setMem m)
  | press (k : Nibble) : HostEffect s (.press k) (s.press k)
  | release (k : Nibble) : HostEffect s (.release k) (s.release k)
  | cycle (t : State) (h : step s = .next t) : HostEffect s .cycle t
  | read (sel : Selector) : HostEffect s (.read sel) s

/-- Every session that a transaction answers holds one of its effects on the core. -/
theorem transact_effect {tr : Transaction} {ss ss' : Session} (h : transact tr ss = .next ss') :
    HostEffect ss.core tr ss'.core := by
  cases tr with
  | reset => cases h; exact .reset
  | load image =>
    simp only [transact, State.load] at h
    split_ifs at h
    cases hm : Memory.storeBytes ss.core.mem Config.progStart image with
    | none => simp [hm] at h
    | some m =>
      simp only [hm, Option.map_some] at h
      cases h
      exact .load image m hm
  | press k => cases h; exact .press k
  | release k => cases h; exact .release k
  | cycle =>
    simp only [transact] at h
    cases hc : step ss.core with
    | next t => rw [hc] at h; cases h; exact .cycle t hc
    | fault r => cases r
    | refused r => rw [hc] at h; cases h
  | read sel => cases h; exact .read sel

/-! ### The invariant -/

/-- The invariant speaks of the memory and the stack alone. -/
theorem State.Inv.congr {s t : State} (hs : s.Inv) (hmem : t.mem = s.mem) (hstack : t.stack = s.stack) : t.Inv :=
  ⟨hmem ▸ hs.mem, fun k => by simpa [hstack] using hs.stack k⟩

/-- A store keeps the memory canonical, whatever else changes beside it but the stack. -/
theorem State.Inv.of_store {s t : State} {a : Nat} {bs : List Byte} (hs : s.Inv)
    (hm : Memory.storeBytes s.mem a bs = some t.mem) (hstack : t.stack = s.stack) : t.Inv :=
  ⟨(storeBytes_some hm hs.mem).1, fun k => by simpa [hstack] using hs.stack k⟩

/-- A handler that runs after a fetch keeps the invariant: `FX33` and `FX55` store canonically, and `2NNN` pushes the
address that was fetched from. -/
theorem Effect.keeps_inv {i : Instr} {s t : State} (he : Effect s i t) (hpc : s.pc.toNat ≤ 0xFFE) (hs : s.Inv) :
    t.Inv := by
  cases he with
  | call nnn hsp =>
    refine ⟨hs.mem, fun k => ?_⟩
    simp only [Vector.getElem_set]
    split_ifs
    · exact hpc
    · exact hs.stack k
  | ldBVx x m hm => exact hs.of_store hm rfl
  | ldMemVx x m hm => exact hs.of_store hm rfl
  | _ => exact hs.congr rfl rfl

theorem step_keeps_inv {s t : State} (hs : s.Inv) (h : step s = .next t) : t.Inv :=
  step_keeps (P := State.Inv) (fun _ => hs.congr rfl rfl) (hs.congr rfl rfl)
    (fun _ _ hpc he => he.keeps_inv hpc hs)
    (fun u hu => hu.congr (decay_mem u) (decay_stack u)) hs h

/-- Settles O6, by the effect of the handler: `step_keeps_inv`. -/
theorem stepKeepsInvariant : Obligations.StepKeepsInvariant := fun _ _ => step_keeps_inv

theorem inv_reset : State.reset.Inv := ⟨rfl, fun k => by simp [State.reset]⟩

/-- Settles O5. -/
theorem invariantAtReset : Obligations.InvariantAtReset := inv_reset

theorem HostEffect.keeps_inv {tr : Transaction} {s t : State} (he : HostEffect s tr t) (hs : s.Inv) : t.Inv := by
  cases he with
  | reset => exact inv_reset.congr rfl rfl
  | load image m hm => exact hs.of_store hm rfl
  | press k => exact hs.congr rfl rfl
  | release k => exact hs.congr rfl rfl
  | cycle _ h => exact step_keeps_inv hs h
  | read sel => exact hs

/-- Settles O7, by the effect of the transaction on the core. -/
theorem transactionsKeepInvariant : Obligations.TransactionsKeepInvariant :=
  fun _ _ _ hs h => (transact_effect h).keeps_inv hs

/-! ### The halted state -/

theorem HostEffect.fault_of_halted {tr : Transaction} {s t : State} (he : HostEffect s tr t) (hs : s.fault ≠ .noFault) :
    (tr ≠ .reset → t.fault = s.fault) ∧ (tr = .reset → t.fault = .noFault) := by
  cases he with
  | reset => exact ⟨fun hne => absurd rfl hne, fun _ => rfl⟩
  | cycle _ h => exact ⟨fun _ => by rw [step_of_halted hs h], nofun⟩
  | _ => exact ⟨fun _ => rfl, nofun⟩

/-- Settles O16, by the effect of the transaction on the core; a cycle of a halted core changes nothing. -/
theorem onlyResetLeavesTheHaltedState : Obligations.OnlyResetLeavesTheHaltedState :=
  fun _ _ _ hs h => (transact_effect h).fault_of_halted hs

/-! ### Where `PC` goes -/

/-- A handler that raises no fault leaves `PC` where R25 says, without wrapping: neither the address fetched from nor
an entry of the stack is above `0xFFE`. -/
theorem Effect.pc_eq_pcAfter {i : Instr} {s t : State} (he : Effect s i t) (hs : s.Inv) (hpc : s.pc.toNat ≤ 0xFFE)
    (ht : t.fault = .noFault) : t.pc.toNat = pcAfter i s := by
  cases he with
  | fault c hc => exact absurd ht hc
  | flow p hp => exact hp hpc
  | regs v draws hv hp => exact hp ▸ toNat_add_two hpc
  | index w hi hp => exact hp ▸ toNat_add_two hpc
  | ret hsp =>
    have hentry := hs.stack ⟨s.sp.val - 1, by omega⟩
    simpa [pcAfter, hsp] using toNat_add_two hentry
  | call nnn hsp => simp [addrWord, pcAfter]; omega
  | _ => exact toNat_add_two hpc

/-- Settles O18, by the effect of the handler on `PC`, which the decay leaves alone. -/
theorem pcChangesAsListed : Obligations.PcChangesAsListed := by
  intro s t hs h0 h ht
  obtain ⟨hne, -⟩ | ⟨-, -, rfl⟩ | ⟨w, u, -, hf, hrun, rfl⟩ := step_cases h
  · exact absurd h0 hne
  · cases ht
  · have hpc := ((fetch_some s w).mp hf).1
    have hu : u.fault = .noFault := by
      by_contra hu
      simp [hu] at ht
    refine ⟨w, hf, ?_⟩
    rw [if_pos hu, decay_pc]
    obtain ⟨i, hd, hi⟩ | ⟨w', hd, hw⟩ := hrun
    · rw [hd]
      exact (exec_effect hi).pc_eq_pcAfter hs hpc hu
    · rw [hd, execUnrecognised_next.mp hw]
      exact toNat_add_two hpc

/-! ### Who writes what -/

/-- Settles O19, by the effect of the handler. -/
theorem registerWriters : Obligations.RegisterWriters := by
  intro i s t k h hk
  cases exec_effect h with
  | regs v draws hv hp => exact hv k hk
  | drw x y n fb w => exact s.getV_setV_ne w (by simpa [mayWriteV, flagReg] using hk)
  | ldVxMem x v hv => exact hv k hk
  | _ => rfl

/-- Settles O20, by the effect of the handler: in every case but those of R28 the index is that of before. -/
theorem indexWriters : Obligations.IndexWriters := by
  intro i s t h hne
  cases exec_effect h with
  | index w hi hp => exact hi.imp_right fun ⟨x, hx⟩ => ⟨x, by tauto⟩
  | ldMemVx x m hm => exact .inr ⟨x, by simp⟩
  | ldVxMem x v hv => exact .inr ⟨x, by simp⟩
  | _ => exact absurd rfl hne

/-- Settles O21, by the effect of the handler. -/
theorem stackWriters : Obligations.StackWriters := by
  intro i s t h
  cases exec_effect h with
  | ret hsp => exact ⟨fun _ => .inl rfl, fun _ hne => absurd rfl hne⟩
  | call nnn hsp =>
    refine ⟨fun _ => .inr ⟨nnn, rfl⟩, fun k hne => ⟨?_, nnn, rfl⟩⟩
    by_contra hk
    exact hne (Vector.getElem_set_ne hsp k.isLt (Ne.symm hk))
  | _ => exact ⟨fun hne => absurd rfl hne, fun _ hne => absurd rfl hne⟩

/-- Settles O22, by the effect of the handler. -/
theorem timerWriters : Obligations.TimerWriters := by
  intro i s t h
  cases exec_effect h with
  | ldDtVx x => exact ⟨fun _ => ⟨x, rfl⟩, fun hne => absurd rfl hne, rfl⟩
  | ldStVx x => exact ⟨fun hne => absurd rfl hne, fun _ => ⟨x, rfl⟩, rfl⟩
  | _ => exact ⟨fun hne => absurd rfl hne, fun hne => absurd rfl hne, rfl⟩

theorem Effect.keys_eq {i : Instr} {s t : State} (he : Effect s i t) : t.keys = s.keys := by
  cases he <;> rfl

/-- Settles O23: no handler writes a latch, and neither does the rest of the cycle. -/
theorem cyclesNeverWriteKeys : Obligations.CyclesNeverWriteKeys := fun s _ h =>
  step_keeps (P := fun u => u.keys = s.keys) (fun _ => rfl) rfl (fun _ _ _ he => he.keys_eq)
    (fun u hu => (decay_keys u).trans hu) rfl h

/-! ### The values at reset -/

/-- An address that was never written reads as its byte of reset (R45). -/
theorem read_reset {a : Nat} (ha : a < 4096) : Memory.read State.reset.mem a = some (initialByte a) :=
  if_pos ha

/-- Settles O1. -/
theorem resetState : Obligations.ResetState := by
  have hfont : font.length = 80 := rfl
  refine ⟨fun k => ?_, rfl, rfl, rfl, fun k => ?_, rfl, rfl, fun k => ?_, rfl, hfont, fun a ha => ?_, fun a ha hb => ?_,
    fun a ha => ?_, fun k _ => fbRead_clear k⟩
  · simp [State.getV, State.reset]
  · simp [State.reset]
  · simp [State.reset]
  · rw [read_reset (by omega), initialByte, List.getElem?_eq_getElem (by omega), List.getD_eq_getElem _ _ (by omega)]
  · rw [read_reset hb, initialByte, List.getD_eq_default _ _ (by omega)]
  · exact if_neg (by simpa using ha)

end Sys2Proof.Machine

/-! SUPPORT. The statements about memory and the frame buffer: which addresses a store leaves alone, what the host's
word at `PC` does to the state, and, by the effect of the handler, who writes memory and who writes pixels. -/

namespace Sys2Proof.Machine

/-! ### A store, seen from one address -/

/-- A store leaves every address outside its bytes as it was (R68, R69). -/
theorem read_storeBytes_of_outside {m m' : Memory} {a c : Nat} {bs : List Byte}
    (h : Memory.storeBytes m a bs = some m') (hw : Memory.wf m = true) (hc : c < a ∨ a + bs.length ≤ c) :
    Memory.read m' c = Memory.read m c := by
  have hget : Memory.get m' c = Memory.get m c := by
    rw [(storeBytes_some h hw).2 c]
    split_ifs
    · rw [List.getElem?_eq_none (by omega), Option.getD_none]
    · rfl
  simp only [Memory.read, hget]

/-- `FX55` stores one byte for each register of its list (R68). -/
theorem length_regsUpTo (s : State) (x : Reg) : (s.regsUpTo x).length = x.toNat + 1 := by
  have hx := x.isLt
  simp only [State.regsUpTo, List.length_take, Vector.length_toList]
  omega

/-! ### Who writes memory, and who writes the frame buffer -/

/-- Settles O24, by the effect of the handler: `FX33` and `FX55` store from `I`, and no other handler stores. -/
theorem memoryWriters : Obligations.MemoryWriters := by
  intro i s t a hw h ha
  cases exec_effect h with
  | ldBVx x m hm =>
    refine read_storeBytes_of_outside hm hw ?_
    simp only [storedAddresses, List.mem_cons, List.not_mem_nil, or_false, not_or] at ha
    simp only [decimalDigits, List.length_cons, List.length_nil]
    omega
  | ldMemVx x m hm =>
    refine read_storeBytes_of_outside hm hw ?_
    rw [List.length_map, length_regsUpTo]
    by_contra hin
    exact ha (List.mem_map.mpr ⟨a - s.i.toNat, List.mem_range.mpr (by omega), by omega⟩)
  | _ => rfl

/-- Settles O25, by the effect of the handler. -/
theorem frameBufferWriters : Obligations.FrameBufferWriters := by
  intro i s t h hne
  cases exec_effect h with
  | cls => exact .inl rfl
  | drw x y n fb w => exact .inr ⟨x, y, n, rfl⟩
  | _ => exact absurd rfl hne

/-! ### A word placed at `PC` -/

/-- The two bytes of a word, put together again, are the word (R64). -/
theorem wordOfBytes_highByte_lowByte (w : Word) : wordOfBytes (highByte w) (lowByte w) = w := by
  apply BitVec.eq_of_getLsbD_eq
  intro k hk
  simp only [wordOfBytes, highByte, lowByte, BitVec.getLsbD_append, BitVec.getLsbD_extractLsb']
  interval_cases k <;> simp

/-- Where a word can be fetched, placing it is the store of its two bytes at `PC` and nothing else (R64, R75). -/
theorem withFetchWord_eq_setMem {s : State} (op : Word) (hpc : s.pc.toNat ≤ 0xFFE) :
    ∃ m, Memory.storeBytes s.mem s.pc.toNat [highByte op, lowByte op] = some m ∧
      s.withFetchWord 16 op.toNat = s.setMem m := by
  have hfits : s.pc.toNat + [highByte op, lowByte op].length ≤ Config.memSize := by
    simp only [List.length_cons, List.length_nil, Config.memSize]
    omega
  obtain ⟨m, hm⟩ := storeBytes_of_fits s.mem hfits
  have hop : BitVec.ofNat 16 (op.toNat % 2 ^ 16) = op := by
    rw [Nat.mod_eq_of_lt op.isLt, BitVec.ofNat_toNat, BitVec.setWidth_eq]
  exact ⟨m, hm, by rw [State.withFetchWord, hop, placeWord, hm]⟩

/-- A word whose two bytes were stored at `PC` is the one fetched (R75). -/
theorem fetch_setMem_of_stored {s : State} {op : Word} {m : Memory} (hw : Memory.wf s.mem = true)
    (hpc : s.pc.toNat ≤ 0xFFE) (hm : Memory.storeBytes s.mem s.pc.toNat [highByte op, lowByte op] = some m) :
    fetch (s.setMem m) = some op := by
  obtain ⟨-, hget⟩ := storeBytes_some hm hw
  have hhi : Memory.get m s.pc.toNat = highByte op := by simp [hget]
  have hlo : Memory.get m (s.pc.toNat + 1) = lowByte op := by simp [hget]
  refine (fetch_some _ _).mpr ⟨hpc, ?_⟩
  rw [State.setMem_mem, State.setMem_pc, hhi, hlo, wordOfBytes_highByte_lowByte]

/-- Settles O45: the word is placed by one store, which the fetch reads back and which spares the other addresses. -/
theorem fetchSeesWhatIsStored : Obligations.FetchSeesWhatIsStored := by
  intro s op hw hpc
  obtain ⟨m, hm, hs⟩ := withFetchWord_eq_setMem op hpc
  rw [hs]
  refine ⟨fetch_setMem_of_stored hw hpc hm, fun a hne hne' => ?_, rfl⟩
  refine read_storeBytes_of_outside hm hw ?_
  simp only [List.length_cons, List.length_nil]
  omega

end Sys2Proof.Machine

/-! SUPPORT. The encoding: `decode` undoes `encode`, a word that decodes is the word of what it decodes to, and the
decoder's answers are those of the table R99. Then the totality of the cycle. -/

namespace Sys2Proof

/-! ### A word from its fields -/

section Fields

variable {w : Word} {f : Nibble}

/-- Format `NNN` of R91, from a word whose family is known. -/
theorem formatNNN_of_family (hf : (fieldFamily w).toNat = f.toNat) : formatNNN f (fieldNNN w) = w := by
  rw [← BitVec.eq_of_toNat_eq hf, formatNNN_fields]

/-- Format `XNN` of R91, from a word whose family is known. -/
theorem formatXNN_of_family (hf : (fieldFamily w).toNat = f.toNat) : formatXNN f (fieldX w) (fieldNN w) = w := by
  rw [← BitVec.eq_of_toNat_eq hf, formatXNN_fields]

/-- Format `XNN` of R91, from a word whose family and low byte are known (R94). -/
theorem formatXNN_of_selector {nn : Byte} (hf : (fieldFamily w).toNat = f.toNat)
    (hn : (fieldNN w).toNat = nn.toNat) : formatXNN f (fieldX w) nn = w := by
  rw [← BitVec.eq_of_toNat_eq hn, formatXNN_of_family hf]

/-- Format `XYN` of R91, from a word whose family is known. -/
theorem formatXYN_of_family (hf : (fieldFamily w).toNat = f.toNat) :
    formatXYN f (fieldX w) (fieldY w) (fieldN w) = w := by
  rw [← BitVec.eq_of_toNat_eq hf, formatXYN_fields]

/-- Format `XY` of R91, from a word whose family and low nibble are known (R94, R95). -/
theorem formatXYN_of_selector {n : Nibble} (hf : (fieldFamily w).toNat = f.toNat)
    (hn : (fieldN w).toNat = n.toNat) : formatXYN f (fieldX w) (fieldY w) n = w := by
  rw [← BitVec.eq_of_toNat_eq hn, formatXYN_of_family hf]

end Fields

/-! ### Decoding the word of an instruction -/

/-- The decoder gives back every instruction: the family selects the arm, and in families 8, E and F the low nibble or
byte of the format selects the instruction. -/
theorem decode_encode (i : Instr) : decode (encode i) = .instr i := by
  cases i with
  | cls | ret => rfl
  | jp nnn | call nnn | ldI nnn | jpV0 nnn => simp [encode, decode, fieldFamily_formatNNN, fieldNNN_formatNNN]
  | seImm x nn | sneImm x nn | ldImm x nn | addImm x nn | rnd x nn => simp [encode, decode, fields_formatXNN]
  | drw x y n => simp [encode, decode, fields_formatXYN]
  | seReg x y | sneReg x y => simp [encode, decode, fields_formatXYN]
  | ldReg x y | orReg x y | andReg x y | xorReg x y | addReg x y | subReg x y | shr x y | subnReg x y | shl x y =>
    simp [encode, decode, decodeMath, fields_formatXYN]
  | skp x | sknp x => simp [encode, decode, decodeKey, fields_formatXNN]
  | ldVxDt x | ldVxK x | ldDtVx x | ldStVx x | addIVx x | ldFVx x | ldBVx x | ldMemVx x | ldVxMem x =>
    simp [encode, decode, decodeMixed, fields_formatXNN]

/-- Settles O53, by the fields of each format: `decode_encode`. -/
theorem decodeOfEncode : Obligations.DecodeOfEncode := decode_encode

/-! ### The word of what a word decodes to -/

section EncodeOfDecode

variable {w : Word} {i : Instr}

theorem encode_of_decodeZero (h : decodeZero w = .instr i) : encode i = w := by
  unfold decodeZero at h
  split at h <;> cases h
  next hw => exact BitVec.eq_of_toNat_eq hw.symm
  next hw => exact BitVec.eq_of_toNat_eq hw.symm

theorem encode_of_decodeMath (hf : (fieldFamily w).toNat = 0x8) (h : decodeMath w = .instr i) : encode i = w := by
  unfold decodeMath at h
  split at h <;> cases h
  all_goals exact formatXYN_of_selector hf ‹_›

theorem encode_of_decodeKey (hf : (fieldFamily w).toNat = 0xE) (h : decodeKey w = .instr i) : encode i = w := by
  unfold decodeKey at h
  split at h <;> cases h
  all_goals exact formatXNN_of_selector hf ‹_›

theorem encode_of_decodeMixed (hf : (fieldFamily w).toNat = 0xF) (h : decodeMixed w = .instr i) : encode i = w := by
  unfold decodeMixed at h
  split at h <;> cases h
  all_goals exact formatXNN_of_selector hf ‹_›

/-- No bit of a recognised word is dropped: the family that selects the arm and the operand fields make up the word. -/
theorem encode_of_decode (h : decode w = .instr i) : encode i = w := by
  unfold decode at h
  split at h
  next => exact encode_of_decodeZero h
  next hf => cases h; exact formatNNN_of_family hf
  next hf => cases h; exact formatNNN_of_family hf
  next hf => cases h; exact formatXNN_of_family hf
  next hf => cases h; exact formatXNN_of_family hf
  next hf =>
    split_ifs at h with hn
    cases h
    exact formatXYN_of_selector hf (congrArg BitVec.toNat hn)
  next hf => cases h; exact formatXNN_of_family hf
  next hf => cases h; exact formatXNN_of_family hf
  next hf => exact encode_of_decodeMath hf h
  next hf =>
    split_ifs at h with hn
    cases h
    exact formatXYN_of_selector hf (congrArg BitVec.toNat hn)
  next hf => cases h; exact formatNNN_of_family hf
  next hf => cases h; exact formatNNN_of_family hf
  next hf => cases h; exact formatXNN_of_family hf
  next hf => cases h; exact formatXYN_of_family hf
  next hf => exact encode_of_decodeKey hf h
  next hf => exact encode_of_decodeMixed hf h
  next => cases h

end EncodeOfDecode

/-- Settles O54, by the arms of the decoder: `encode_of_decode`. -/
theorem encodeOfDecode : Obligations.EncodeOfDecode := fun _ _ => encode_of_decode

/-! ### The table R99 -/

/-- The word of an instruction matches the instruction's row: the family of per-instruction lemmas, put together. -/
theorem matchesRow (i : Instr) : Laws.MatchesRow.Statement i :=
  match i with
  | .cls => Laws.MatchesRow.cls
  | .ret => Laws.MatchesRow.ret
  | .jp nnn => Laws.MatchesRow.jp nnn
  | .call nnn => Laws.MatchesRow.call nnn
  | .seImm x nn => Laws.MatchesRow.seImm x nn
  | .sneImm x nn => Laws.MatchesRow.sneImm x nn
  | .seReg x y => Laws.MatchesRow.seReg x y
  | .ldImm x nn => Laws.MatchesRow.ldImm x nn
  | .addImm x nn => Laws.MatchesRow.addImm x nn
  | .ldReg x y => Laws.MatchesRow.ldReg x y
  | .orReg x y => Laws.MatchesRow.orReg x y
  | .andReg x y => Laws.MatchesRow.andReg x y
  | .xorReg x y => Laws.MatchesRow.xorReg x y
  | .addReg x y => Laws.MatchesRow.addReg x y
  | .subReg x y => Laws.MatchesRow.subReg x y
  | .shr x y => Laws.MatchesRow.shr x y
  | .subnReg x y => Laws.MatchesRow.subnReg x y
  | .shl x y => Laws.MatchesRow.shl x y
  | .sneReg x y => Laws.MatchesRow.sneReg x y
  | .ldI nnn => Laws.MatchesRow.ldI nnn
  | .jpV0 nnn => Laws.MatchesRow.jpV0 nnn
  | .rnd x nn => Laws.MatchesRow.rnd x nn
  | .drw x y n => Laws.MatchesRow.drw x y n
  | .skp x => Laws.MatchesRow.skp x
  | .sknp x => Laws.MatchesRow.sknp x
  | .ldVxDt x => Laws.MatchesRow.ldVxDt x
  | .ldVxK x => Laws.MatchesRow.ldVxK x
  | .ldDtVx x => Laws.MatchesRow.ldDtVx x
  | .ldStVx x => Laws.MatchesRow.ldStVx x
  | .addIVx x => Laws.MatchesRow.addIVx x
  | .ldFVx x => Laws.MatchesRow.ldFVx x
  | .ldBVx x => Laws.MatchesRow.ldBVx x
  | .ldMemVx x => Laws.MatchesRow.ldMemVx x
  | .ldVxMem x => Laws.MatchesRow.ldVxMem x

section Rows

variable {w : Word} {m : String} {f : Nibble}

theorem eq_of_rowMatches_whole {fixed : Word} (h : rowMatches ⟨m, fixed, 0xFFFF#16⟩ w = true) : fixed = w := by
  have hw : w &&& BitVec.allOnes 16 = fixed := beq_iff_eq.mp h
  rw [← hw, BitVec.and_allOnes]

/-- A row that masks the family alone is met by the words of that family. -/
theorem family_of_rowMatches (h : rowMatches ⟨m, formatNNN f 0, 0xF000#16⟩ w = true) :
    (fieldFamily w).toNat = f.toNat := by
  have hw : w &&& 0xF000#16 = formatNNN f 0 := beq_iff_eq.mp h
  rw [← formatNNN_fields w, Laws.MatchesRow.nnn_row] at hw
  rw [← fieldFamily_formatNNN (fieldFamily w) 0, hw, fieldFamily_formatNNN]

/-- A row that masks the family and the low nibble is met by the words in format `XY`. -/
theorem formatXYN_of_rowMatches {n : Nibble} (h : rowMatches ⟨m, formatXYN f 0 0 n, 0xF00F#16⟩ w = true) :
    formatXYN f (fieldX w) (fieldY w) n = w := by
  have hw : w &&& 0xF00F#16 = formatXYN f 0 0 n := beq_iff_eq.mp h
  rw [← formatXYN_fields w, (Laws.MatchesRow.xyn_row ..).2] at hw
  obtain ⟨hf, -, -, hn⟩ := fields_formatXYN (fieldFamily w) 0 0 (fieldN w)
  obtain ⟨hf', -, -, hn'⟩ := fields_formatXYN f 0 0 n
  exact formatXYN_of_selector (by rw [← hf, hw, hf']) (by rw [← hn, hw, hn'])

/-- A row that masks the family and the low byte is met by the words in format `XNN` that hold the byte. -/
theorem formatXNN_of_rowMatches {nn : Byte} (h : rowMatches ⟨m, formatXNN f 0 nn, 0xF0FF#16⟩ w = true) :
    formatXNN f (fieldX w) nn = w := by
  have hw : w &&& 0xF0FF#16 = formatXNN f 0 nn := beq_iff_eq.mp h
  rw [← formatXNN_fields w, (Laws.MatchesRow.xnn_row ..).2] at hw
  obtain ⟨hf, -, hn⟩ := fields_formatXNN (fieldFamily w) 0 (fieldNN w)
  obtain ⟨hf', -, hn'⟩ := fields_formatXNN f 0 nn
  exact formatXNN_of_selector (by rw [← hf, hw, hf']) (by rw [← hn, hw, hn'])

/-- A word that matches a row is the word of an instruction of that row, read off row by row. -/
theorem exists_encode_of_rowMatches (w : Word) :
    ∀ r ∈ opcodeTable, rowMatches r w = true → ∃ i, encode i = w ∧ opcodeTable[rowOf i]? = some r := by
  simp only [opcodeTable, List.forall_mem_append]
  refine ⟨⟨⟨?low, ?math⟩, ?high⟩, ?mixed⟩
  case low =>
    simp only [opRowsLow, List.forall_mem_cons]
    exact ⟨
      fun h => ⟨.cls, eq_of_rowMatches_whole h, rfl⟩,
      fun h => ⟨.ret, eq_of_rowMatches_whole h, rfl⟩,
      fun h => ⟨.jp _, formatNNN_of_family (family_of_rowMatches h), rfl⟩,
      fun h => ⟨.call _, formatNNN_of_family (family_of_rowMatches h), rfl⟩,
      fun h => ⟨.seImm _ _, formatXNN_of_family (family_of_rowMatches h), rfl⟩,
      fun h => ⟨.sneImm _ _, formatXNN_of_family (family_of_rowMatches h), rfl⟩,
      fun h => ⟨.seReg _ _, formatXYN_of_rowMatches h, rfl⟩,
      fun h => ⟨.ldImm _ _, formatXNN_of_family (family_of_rowMatches h), rfl⟩,
      fun h => ⟨.addImm _ _, formatXNN_of_family (family_of_rowMatches h), rfl⟩,
      nofun⟩
  case math =>
    simp only [opRowsMath, List.forall_mem_cons]
    exact ⟨
      fun h => ⟨.ldReg _ _, formatXYN_of_rowMatches h, rfl⟩,
      fun h => ⟨.orReg _ _, formatXYN_of_rowMatches h, rfl⟩,
      fun h => ⟨.andReg _ _, formatXYN_of_rowMatches h, rfl⟩,
      fun h => ⟨.xorReg _ _, formatXYN_of_rowMatches h, rfl⟩,
      fun h => ⟨.addReg _ _, formatXYN_of_rowMatches h, rfl⟩,
      fun h => ⟨.subReg _ _, formatXYN_of_rowMatches h, rfl⟩,
      fun h => ⟨.shr _ _, formatXYN_of_rowMatches h, rfl⟩,
      fun h => ⟨.subnReg _ _, formatXYN_of_rowMatches h, rfl⟩,
      fun h => ⟨.shl _ _, formatXYN_of_rowMatches h, rfl⟩,
      nofun⟩
  case high =>
    simp only [opRowsHigh, List.forall_mem_cons]
    exact ⟨
      fun h => ⟨.sneReg _ _, formatXYN_of_rowMatches h, rfl⟩,
      fun h => ⟨.ldI _, formatNNN_of_family (family_of_rowMatches h), rfl⟩,
      fun h => ⟨.jpV0 _, formatNNN_of_family (family_of_rowMatches h), rfl⟩,
      fun h => ⟨.rnd _ _, formatXNN_of_family (family_of_rowMatches h), rfl⟩,
      fun h => ⟨.drw _ _ _, formatXYN_of_family (family_of_rowMatches h), rfl⟩,
      fun h => ⟨.skp _, formatXNN_of_rowMatches h, rfl⟩,
      fun h => ⟨.sknp _, formatXNN_of_rowMatches h, rfl⟩,
      nofun⟩
  case mixed =>
    simp only [opRowsMixed, List.forall_mem_cons]
    exact ⟨
      fun h => ⟨.ldVxDt _, formatXNN_of_rowMatches h, rfl⟩,
      fun h => ⟨.ldVxK _, formatXNN_of_rowMatches h, rfl⟩,
      fun h => ⟨.ldDtVx _, formatXNN_of_rowMatches h, rfl⟩,
      fun h => ⟨.ldStVx _, formatXNN_of_rowMatches h, rfl⟩,
      fun h => ⟨.addIVx _, formatXNN_of_rowMatches h, rfl⟩,
      fun h => ⟨.ldFVx _, formatXNN_of_rowMatches h, rfl⟩,
      fun h => ⟨.ldBVx _, formatXNN_of_rowMatches h, rfl⟩,
      fun h => ⟨.ldMemVx _, formatXNN_of_rowMatches h, rfl⟩,
      fun h => ⟨.ldVxMem _, formatXNN_of_rowMatches h, rfl⟩,
      nofun⟩

end Rows

section Answers

variable {w : Word}

/-- A word is recognised exactly when it is the word of an instruction (R97, R100). -/
theorem recognised_iff : recognised w = true ↔ ∃ i, encode i = w := by
  rw [recognised, List.any_eq_true]
  constructor
  · rintro ⟨r, hr, h⟩
    obtain ⟨i, hi, -⟩ := exists_encode_of_rowMatches w r hr h
    exact ⟨i, hi⟩
  · rintro ⟨i, rfl⟩
    obtain ⟨r, hr, h⟩ := matchesRow i
    exact ⟨r, List.mem_of_getElem? hr, h⟩

/-- What the decoder calls unrecognised is the word it was given. -/
theorem eq_of_decode_unrecognised {w' : Word} (h : decode w = .unrecognised w') : w' = w := by
  simp only [decode, decodeZero, decodeMath, decodeKey, decodeMixed] at h
  -- every arm answers an instruction or the word itself
  repeat' split at h
  all_goals cases h <;> rfl

/-- The decoder answers an instruction exactly for the recognised words (R97). -/
theorem decode_unrecognised_iff : decode w = .unrecognised w ↔ recognised w = false := by
  rw [← Bool.not_eq_true, recognised_iff]
  constructor
  · rintro h ⟨i, rfl⟩
    rw [decode_encode] at h
    cases h
  · intro hne
    cases h : decode w with
    | instr i => exact absurd ⟨i, encode_of_decode h⟩ hne
    | unrecognised w' => rw [eq_of_decode_unrecognised h]

theorem decode_wf (w : Word) : (decode w).wf = true := by
  cases h : decode w with
  | instr i => rfl
  | unrecognised w' =>
    obtain rfl := eq_of_decode_unrecognised h
    simp [Decoded.wf, decode_unrecognised_iff.mp h]

/-- A word that matches a row decodes to an instruction of that row. -/
theorem decode_of_rowMatches {r : OpRow} (hr : r ∈ opcodeTable) (h : rowMatches r w = true) :
    ∃ i, decode w = .instr i ∧ opcodeTable[rowOf i]? = some r := by
  obtain ⟨i, rfl, hi⟩ := exists_encode_of_rowMatches w r hr h
  exact ⟨i, decode_encode i, hi⟩

/-- No word matches two rows: both are the row of the one instruction that the word decodes to. -/
theorem rowMatches_unique {r r' : OpRow} (hr : r ∈ opcodeTable) (hr' : r' ∈ opcodeTable)
    (h : rowMatches r w = true) (h' : rowMatches r' w = true) : r = r' := by
  obtain ⟨i, hd, hi⟩ := decode_of_rowMatches hr h
  obtain ⟨i', hd', hi'⟩ := decode_of_rowMatches hr' h'
  obtain rfl : i = i' := by simpa using hd.symm.trans hd'
  simpa using hi.symm.trans hi'

end Answers

/-- Settles O55: a word that matches a row is the word of one of its instructions, which the decoder gives back, and a
word that decodes to an instruction is recognised. -/
theorem decoderAgreesWithTheTable : Obligations.DecoderAgreesWithTheTable := fun w =>
  ⟨fun _ => decode_of_rowMatches, decode_unrecognised_iff.mpr, fun _ hr _ hr' => rowMatches_unique hr hr', decode_wf w⟩

/-- Settles O56, by evaluation of the decoder on the twelve words. -/
theorem wordsOfTheTable : Obligations.WordsOfTheTable := by
  unfold Obligations.WordsOfTheTable
  decide

end Sys2Proof

namespace Sys2Proof.Machine

/-! ### Every state has a next state -/

/-- No instruction is refused and none stops the model: on every branch the handler advances, stays or raises. -/
theorem exec_answers (i : Instr) (s : State) : ∃ t, exec i s = .next t := by
  cases i with
  | ret | call nnn | jpV0 nnn | skp x | sknp x | ldVxK x | ldFVx x | ldVxMem x =>
    simp only [exec, execRet, execCall, execJpV0, execSkp, execSknp, execLdVxK, execLdFVx, execLdVxMem]
    split <;> exact ⟨_, rfl⟩
  | drw x y n | ldBVx x | ldMemVx x =>
    simp only [exec, execDrw, execLdBVx, execLdMemVx]
    split
    · exact ⟨_, rfl⟩
    · split <;> exact ⟨_, rfl⟩
  | _ => exact ⟨_, rfl⟩

/-- The end of the cycle answers a state where the handler did (R129, R131). -/
theorem finishCycle_answers {r : Result} (h : ∃ u, r = .next u) : ∃ t, finishCycle r = .next t := by
  obtain ⟨u, rfl⟩ := h
  simp only [finishCycle]
  split_ifs <;> exact ⟨_, rfl⟩

theorem step_answers (s : State) : ∃ t, step s = .next t := by
  simp only [step, cycle]
  split_ifs
  · cases fetch s with
    | none => exact ⟨_, rfl⟩
    | some op =>
      dsimp only
      cases decode op with
      | instr i => exact finishCycle_answers (exec_answers i s)
      | unrecognised w => exact finishCycle_answers ⟨_, rfl⟩
  · exact ⟨s, rfl⟩

/-- Settles O14: the handler answers a state on every branch, and so does every branch of the cycle. -/
theorem everyStepAnswersANextState : Obligations.EveryStepAnswersANextState := step_answers

end Sys2Proof.Machine

/-! SUPPORT. The cycle, forwards: what a step answers in each of its branches (R129), what the decay leaves in the
timers, as numbers, and the statements about the cycle that follow. -/

namespace Sys2Proof.Machine

/-! ### What a step answers -/

theorem step_eq_self_of_halted {s : State} (hs : s.fault ≠ .noFault) : step s = .next s :=
  if_neg hs

/-- A fetch out of range abandons the cycle (R122). -/
theorem step_of_fetch_none {s : State} (hs : s.fault = .noFault) (hf : fetch s = none) :
    step s = .next (takeFault .fetchRange s) := by
  simp only [step, cycle, if_pos hs, hf, raise]

/-- After the handler the timers decay, unless it raised a fault (R129, R131). -/
theorem finishCycle_next (u : State) :
    finishCycle (.next u) = .next (if u.fault = .noFault then decay u else u) := by
  simp only [finishCycle]
  split_ifs <;> rfl

section Fetched

variable {s u : State} {op : Word} (hs : s.fault = .noFault) (hf : fetch s = some op)
include hs hf

theorem step_of_decode_instr {i : Instr} (hd : decode op = .instr i) (hu : exec i s = .next u) :
    step s = .next (if u.fault = .noFault then decay u else u) := by
  simp only [step, cycle, if_pos hs, hf, hd, hu, finishCycle_next]

/-- An unrecognised opcode moves `PC`, and the cycle completes (R130). -/
theorem step_of_decode_unrecognised {w : Word} (hd : decode op = .unrecognised w) :
    step s = .next (decay (s.setPc (s.pc + 2))) := by
  have hok : (s.setPc (s.pc + 2)).fault = .noFault := hs
  simp only [step, cycle, if_pos hs, hf, hd, execUnrecognised, advance, finishCycle_next, if_pos hok]

end Fetched

/-- The two bytes at `PC` are the word that the fetch answers (R122, R123). -/
theorem AtPc.fetch_decode {i : Instr} {s : State} (h : AtPc i s) : ∃ op, fetch s = some op ∧ decode op = .instr i := by
  obtain ⟨hi, lo, hhi, hlo, hd⟩ := h
  exact ⟨wordOfBytes hi lo, by simp only [fetch, hhi, hlo], hd⟩

/-- The byte at the lower address is the more significant (R64). -/
theorem toNat_wordOfBytes (hi lo : Byte) : (wordOfBytes hi lo).toNat = hi.toNat * 256 + lo.toNat := by
  rw [wordOfBytes, BitVec.toNat_append, ← Nat.shiftLeft_add_eq_or_of_lt lo.isLt, Nat.shiftLeft_eq]

/-- Settles O8. -/
theorem haltedCycleDoesNothing : Obligations.HaltedCycleDoesNothing := fun s hcode =>
  step_eq_self_of_halted fun hs => hcode (by rw [hs, FaultCode.code])

/-- Settles O9, by what the fetch answers on each side of `0xFFE`. -/
theorem fetchReadsTwoBytes : Obligations.FetchReadsTwoBytes := fun s =>
  ⟨fun hpc hs => step_of_fetch_none hs ((fetch_none s).mpr hpc),
    fun hpc => ⟨_, (fetch_some s _).mpr ⟨hpc, rfl⟩, toNat_wordOfBytes _ _⟩⟩

/-- Settles O10. -/
theorem stepRunsDecodedInstruction : Obligations.StepRunsDecodedInstruction := by
  intro i s t hs hat ht
  obtain ⟨op, hf, hd⟩ := hat.fetch_decode
  exact step_of_decode_instr hs hf hd ht

/-! ### The decay, in numbers -/

/-- A timer one lower, if above zero, is the truncated difference. -/
theorem toNat_countdown (w : Word) : (if w = 0 then 0 else w - 1).toNat = w.toNat - 1 := by
  split_ifs with h
  · rw [h]; rfl
  · bv_omega

/-- The decay of both timers and the beep (R127, R128), and that they are all it changes. -/
theorem decay_timers (u : State) :
    (decay u).dt.toNat = u.dt.toNat - 1 ∧ (decay u).st.toNat = u.st.toNat - 1 ∧
      (decay u).beeps = (if u.st.toNat = 1 then u.beeps + 1 else u.beeps) ∧
      decay u = { u with dt := (decay u).dt, st := (decay u).st, beeps := (decay u).beeps } := by
  refine ⟨?_, ?_, ?_, ?_⟩
  · rw [decay_dt, toNat_countdown]
  · rw [decay_st, toNat_countdown]
  · simp [decay_beeps, ← BitVec.toNat_inj]
  · simp only [decay, decaySound, decayDelay]
    split_ifs <;> rfl

/-- The decay beeps at most once, and only where it leaves the sound timer at zero (R128). -/
theorem decay_beeps_cases (u : State) :
    (decay u).beeps = u.beeps ∨ (decay u).beeps = u.beeps + 1 ∧ (decay u).st = 0 := by
  rw [decay_beeps]
  split_ifs with h
  · exact .inr ⟨rfl, by rw [decay_st, h]; rfl⟩
  · exact .inl rfl

/-- Settles O12: the step is the handler's state decayed, with the timers of `decay_timers`. -/
theorem timersDecayAfterTheHandler : Obligations.TimersDecayAfterTheHandler := by
  intro i s u hs hat hu hok
  obtain ⟨op, hf, hd⟩ := hat.fetch_decode
  have hstep : step s = .next (decay u) := by rw [step_of_decode_instr hs hf hd hu, if_pos hok]
  exact ⟨decay u, hstep, decay_timers u⟩

/-- Settles O11: the step is the state with `PC` moved, decayed; a `PC` fetched from does not wrap. -/
theorem unrecognisedOpcodeIsNoOperation : Obligations.UnrecognisedOpcodeIsNoOperation := by
  intro s op w hs hf hd
  have hpc := ((fetch_some s op).mp hf).1
  obtain ⟨hdt, hst, hbeeps, hrest⟩ := decay_timers (s.setPc (s.pc + 2))
  refine ⟨_, step_of_decode_unrecognised hs hf hd, ?_, hdt, hst, hbeeps, ?_⟩
  · rw [decay_pc]
    exact toNat_add_two hpc
  · rw [decay_pc]
    exact hrest

/-- Settles O13: no handler beeps, and the decay beeps only in a completed cycle. -/
theorem atMostOneBeepPerCycle : Obligations.AtMostOneBeepPerCycle := by
  intro s t h
  obtain ⟨-, rfl⟩ | ⟨-, -, rfl⟩ | ⟨w, u, -, -, hrun, rfl⟩ := step_cases h
  · exact .inl rfl
  · exact .inl rfl
  · have hu : u.beeps = s.beeps := by
      obtain ⟨i, -, hi⟩ | ⟨w', -, hw⟩ := hrun
      · exact (timerWriters i s u hi).2.2
      · rw [execUnrecognised_next.mp hw, State.setPc_beeps]
    split_ifs with hok
    · rw [← hu, decay_fault]
      exact (decay_beeps_cases u).imp_right fun ⟨hbeep, hst⟩ => ⟨hbeep, hst, hok⟩
    · exact .inl hu

end Sys2Proof.Machine

/-! SUPPORT. Control transfer: what a call and a return answer where they do not fault, what a skip does to `PC`, and
the statements about the instructions of spec/41 that follow. -/

namespace Sys2Proof.Machine

/-! ### A frame in which only `PC` moves -/

theorem Frame.refl (c : Touched) (s : State) : Frame c s s :=
  ⟨fun _ _ => rfl, fun _ => rfl, fun _ => rfl, fun _ _ => rfl, fun _ => rfl, fun _ => rfl, rfl, rfl, fun _ _ => rfl,
    fun _ _ _ => rfl, rfl, fun _ => rfl⟩

/-- A frame leaves `PC` free, so a write of `PC` keeps it. -/
theorem Frame.setPc {c : Touched} {s t : State} (h : Frame c s t) (p : Word) : Frame c s (t.setPc p) :=
  { h with }

theorem toNat_addrWord (nnn : Addr12) : (addrWord nnn).toNat = nnn.toNat :=
  BitVec.toNat_setWidth_of_le (by decide)

/-- Settles O26. -/
theorem jumpGoesToTarget : Obligations.JumpGoesToTarget := fun nnn s =>
  ⟨_, rfl, toNat_addrWord nnn, (Frame.refl {} s).setPc _⟩

/-- Settles O32: the sum that fits is `PC`, and the one that does not raises the fault. -/
theorem jumpWithOffset : Obligations.JumpWithOffset := by
  intro nnn s
  refine ⟨fun hsum => ⟨_, if_neg (by omega), ?_, (Frame.refl {} s).setPc _⟩, fun hsum => if_pos hsum⟩
  rw [State.setPc_pc, BitVec.toNat_ofNat]
  omega

/-! ### Skips -/

/-- A skip moves `PC` by 4 where its condition holds, else by 2, and changes nothing else (R126). -/
theorem advance_skipIf {c : Bool} {n : Nat} (s : State) (hn : n = if c then 4 else 2) :
    ∃ t, advance (skipIf c s) = .next t ∧ PcMoves n s t ∧ Frame {} s t := by
  subst hn
  cases c with
  | true =>
    refine ⟨_, rfl, fun hpc => ?_, ((Frame.refl {} s).setPc _).setPc _⟩
    simp only [skipIf_pc, State.setPc_pc, if_true]
    bv_omega
  | false => exact ⟨_, rfl, toNat_add_two, (Frame.refl {} s).setPc _⟩

theorem beq_eq_decide_toNat (v w : Word) : (v == w) = decide (v.toNat = w.toNat) := by
  rw [Bool.eq_iff_iff]
  simp [← BitVec.toNat_inj]

/-- Settles O30: both are skips, on the comparison of numbers and on its negation. -/
theorem skipsOnImmediate : Obligations.SkipsOnImmediate := fun x nn s =>
  ⟨advance_skipIf s (by simp [beq_immWord]), advance_skipIf s (by simp [bne, beq_immWord])⟩

/-- Settles O31: both are skips, on the comparison of numbers and on its negation. -/
theorem skipsOnRegisters : Obligations.SkipsOnRegisters := fun x y s =>
  ⟨advance_skipIf s (by simp [beq_eq_decide_toNat]), advance_skipIf s (by simp [bne, beq_eq_decide_toNat])⟩

/-! ### Call and return -/

section CallAndReturn

variable {s : State}

/-- A call below depth 16 writes its own address to the entry at `SP` (R142). -/
theorem exec_call_of_lt (nnn : Addr12) (hs : s.sp.val < 16) :
    exec (.call nnn) s =
      .next { s with stack := s.stack.set s.sp.val s.pc, sp := ⟨s.sp.val + 1, by omega⟩, pc := addrWord nnn } := by
  simp only [exec, execCall, State.push, dif_pos hs, stay, State.setPc]

/-- A return above depth 0 goes 2 past the entry below `SP` (R140). -/
theorem exec_ret_of_pos (hs : 0 < s.sp.val) :
    exec .ret s =
      .next { s with sp := ⟨s.sp.val - 1, by omega⟩, pc := s.stack[s.sp.val - 1]'(by omega) + 2 } := by
  simp only [exec, execRet, State.pop, dif_pos hs, advance, State.setPc]

theorem raises_stackOverflow (nnn : Addr12) (hs : s.sp.val = 16) : Raises .stackOverflow (.call nnn) s := by
  simp only [Raises, exec, execCall, (push_none s s.pc).mpr hs, raise, takeFault]

theorem raises_stackUnderflow (hs : s.sp.val = 0) : Raises .stackUnderflow .ret s := by
  simp only [Raises, exec, execRet, (pop_none s).mpr hs, raise, takeFault]

/-- A call changes the stack pointer and the entry at it, and no other entry. -/
theorem frame_push (hs : s.sp.val < 16) (w p : Word) :
    Frame { sp := true, stack := [s.sp.val] } s
      { s with stack := s.stack.set s.sp.val w, sp := ⟨s.sp.val + 1, by omega⟩, pc := p } :=
  { Frame.refl _ s with
    sp := nofun
    stack := fun k hk => Vector.getElem_set_ne hs k.isLt fun e => hk (List.mem_singleton.mpr e.symm) }

end CallAndReturn

/-- Settles O27, by what a call answers on each side of depth 16. -/
theorem callPushesItsOwnAddress : Obligations.CallPushesItsOwnAddress := by
  refine fun nnn s => ⟨fun hs => ?_, raises_stackOverflow nnn⟩
  have hlt : s.sp.val < 16 := by omega
  exact ⟨_, exec_call_of_lt nnn hlt, by simp, rfl, toNat_addrWord nnn, frame_push hlt _ _⟩

/-- Settles O28, by what a return answers on each side of depth 0. -/
theorem returnGoesPastTheCall : Obligations.ReturnGoesPastTheCall := by
  refine fun s => ⟨fun hs => ?_, raises_stackUnderflow⟩
  have hpos : 0 < s.sp.val := by omega
  exact ⟨_, _, exec_ret_of_pos hpos, rfl, Vector.getElem?_eq_getElem _, toNat_add_two,
    { Frame.refl _ s with sp := nofun }⟩

/-- Settles O29: the entry that the return pops is the one that the call pushed, its own address. -/
theorem returnUndoesCall : Obligations.ReturnUndoesCall := by
  intro nnn s hs hpc
  have hlt : s.sp.val < 16 := by omega
  refine ⟨_, _, exec_call_of_lt nnn hlt, exec_ret_of_pos (Nat.succ_pos _), ?_, rfl⟩
  simpa using toNat_add_two hpc

end Sys2Proof.Machine

/-! SUPPORT. Loads and arithmetic: what a write of a register, of a result with its flag, and of the random count keeps
in a frame, the operands and flags as numbers, and the statements about the instructions of spec/42 that follow. -/

namespace Sys2Proof.Machine

/-! ### A frame through the writes of these handlers -/

section Writes

variable {c : Touched} {s t : State}

/-- A frame that leaves a register free is kept by a write of it. -/
theorem Frame.setV (h : Frame c s t) {x : Reg} (hx : x ∈ c.v) (w : Word) : Frame c s (t.setV x w) :=
  { h with v := fun k hk => (t.getV_setV_ne w (ne_of_mem_of_not_mem hx hk).symm).trans (h.v k hk) }

/-- A frame that leaves the destination and `VF` free is kept by a result with its flag (R173). -/
theorem Frame.setResult (h : Frame c s t) {x : Reg} (hx : x ∈ c.v) (hf : flagReg ∈ c.v) (r : Word) (f : Bool) :
    Frame c s (t.setResult x r f) :=
  (h.setV hx r).setV hf (flagWord f)

/-- A frame that leaves the random count free is kept by consuming a value. -/
theorem Frame.countDraw (h : Frame c s t) (hd : c.draws = true) : Frame c s t.countDraw :=
  { h with draws := fun hd' => by simp [hd] at hd' }

end Writes

/-! ### How the handlers of the registers end -/

/-- A handler that writes one register and advances changes that register and `PC`. -/
theorem advance_setV (s : State) (x : Reg) (w : Word) :
    ∃ t, advance (s.setV x w) = .next t ∧ t.getV x = w ∧ PcMoves 2 s t ∧ Frame { v := [x] } s t :=
  ⟨_, rfl, s.getV_setV_self x w, toNat_add_two, ((Frame.refl _ s).setV (by simp) w).setPc _⟩

/-- A handler that writes a result and its flag and advances: the result stands unless the destination is `VF`, which
ends as the flag (R173). -/
theorem advance_setResult (s : State) (x : Reg) (r : Word) (f : Bool) :
    ∃ t, advance (s.setResult x r f) = .next t ∧ (x ≠ 0xF → t.getV x = r) ∧ t.getV 0xF = flagWord f ∧
      PcMoves 2 s t ∧ Frame { v := [x, 0xF] } s t := by
  refine ⟨_, rfl, fun hx => ?_, ?_, toNat_add_two,
    ((Frame.refl _ s).setResult (by simp) (by simp [flagReg]) r f).setPc _⟩
  · simpa [State.getV_setResult, flagReg] using fun e => absurd e hx
  · simp [State.getV_setResult, flagReg]

/-! ### Operands and flags as numbers -/

theorem toNat_immWord (nn : Byte) : (immWord nn).toNat = nn.toNat :=
  BitVec.toNat_setWidth_of_le (by decide)

theorem toNat_flagWord (f : Bool) : (flagWord f).toNat = if f then 1 else 0 := by
  cases f <;> rfl

theorem toNat_flagWord_lowBit (a : Word) : (flagWord (lowBit a)).toNat = a.toNat % 2 := by
  rw [toNat_flagWord, lowBit, BitVec.getLsbD, Nat.testBit_zero]
  simp only [decide_eq_true_eq]
  split_ifs <;> omega

/-- The wrapped difference is the integer difference modulo 65536. -/
theorem toNat_sub_int (a b : Word) : ((a - b).toNat : Int) = (a.toNat - b.toNat : Int) % 65536 := by
  rw [BitVec.toNat_sub]
  omega

/-- The flag of a subtraction is 0 exactly when the integer difference is negative (R167, R169). -/
theorem toNat_flagWord_noBorrow (a b : Word) :
    (flagWord (noBorrow a b)).toNat = if (a.toNat : Int) - b.toNat < 0 then 0 else 1 := by
  simp only [toNat_flagWord, noBorrow, Bool.not_eq_true', decide_eq_false_iff_not, ite_not]

/-! ### The instructions -/

/-- Settles O33: both write one register. -/
theorem loadAndAddImmediate : Obligations.LoadAndAddImmediate := by
  intro x nn s
  obtain ⟨t, ht, hx, hrest⟩ := advance_setV s x (immWord nn)
  obtain ⟨u, hu, ux, urest⟩ := advance_setV s x (s.getV x + immWord nn)
  refine ⟨⟨t, ht, ?_, hrest⟩, ⟨u, hu, ?_, urest⟩⟩
  · rw [hx, toNat_immWord]
  · rw [ux, BitVec.toNat_add, toNat_immWord]

/-- Settles O34: all four write one register, the logic bit by bit. -/
theorem copyAndLogic : Obligations.CopyAndLogic := by
  intro x y s
  refine ⟨advance_setV s x (s.getV y), ?_, ?_, ?_⟩
  · obtain ⟨t, ht, hx, hpc, hframe⟩ := advance_setV s x (s.getV x ||| s.getV y)
    exact ⟨t, ht, hpc, hframe, fun j _ => by rw [hx, BitVec.getLsbD_or]⟩
  · obtain ⟨t, ht, hx, hpc, hframe⟩ := advance_setV s x (s.getV x &&& s.getV y)
    exact ⟨t, ht, hpc, hframe, fun j _ => by rw [hx, BitVec.getLsbD_and]⟩
  · obtain ⟨t, ht, hx, hpc, hframe⟩ := advance_setV s x (s.getV x ^^^ s.getV y)
    exact ⟨t, ht, hpc, hframe, fun j _ => by rw [hx, BitVec.getLsbD_xor]⟩

/-- Settles O35: the sum is the result and the carry its flag. -/
theorem addSetsCarry : Obligations.AddSetsCarry := by
  intro x y s
  obtain ⟨t, ht, hx, hf, hrest⟩ := advance_setResult s x (s.getV x + s.getV y) (carryOut (s.getV x) (s.getV y))
  refine ⟨t, ht, fun hne => ?_, ?_, hrest⟩
  · rw [hx hne, BitVec.toNat_add]
  · simp only [hf, toNat_flagWord, carryOut, decide_eq_true_eq]

/-- A subtraction with its flag, whichever of the two registers is the minuend. -/
theorem advance_sub (s : State) (x : Reg) (a b : Word) :
    ∃ t, advance (s.setResult x (a - b) (noBorrow a b)) = .next t ∧
      (x ≠ 0xF → ((t.getV x).toNat : Int) = (a.toNat - b.toNat : Int) % 65536) ∧
      (t.getV 0xF).toNat = (if (a.toNat : Int) - b.toNat < 0 then 0 else 1) ∧
      PcMoves 2 s t ∧ Frame { v := [x, 0xF] } s t := by
  obtain ⟨t, ht, hx, hf, hrest⟩ := advance_setResult s x (a - b) (noBorrow a b)
  exact ⟨t, ht, fun hne => by rw [hx hne, toNat_sub_int], by rw [hf, toNat_flagWord_noBorrow], hrest⟩

/-- Settles O36: the two differ in which register is subtracted from which. -/
theorem subtractSetsNotBorrow : Obligations.SubtractSetsNotBorrow := fun x y s =>
  ⟨advance_sub s x (s.getV x) (s.getV y), advance_sub s x (s.getV y) (s.getV x)⟩

/-- Settles O37: the handlers do not read `Y`, so one state answers for all of them. -/
theorem shiftsByOne : Obligations.ShiftsByOne := by
  intro x y s
  constructor
  · obtain ⟨t, ht, hx, hf, hrest⟩ := advance_setResult s x (s.getV x >>> 1) (lowBit (s.getV x))
    refine ⟨t, ht, fun _ => ht, fun hne => ?_, ?_, hrest⟩
    · rw [hx hne, BitVec.toNat_ushiftRight, Nat.shiftRight_one]
    · rw [hf, toNat_flagWord_lowBit]
  · obtain ⟨t, ht, hx, hf, hrest⟩ := advance_setResult s x (s.getV x <<< 1) (highBit (s.getV x))
    refine ⟨t, ht, fun _ => ht, fun hne => ?_, ?_, hrest⟩
    · rw [hx hne, BitVec.toNat_shiftLeft, Nat.shiftLeft_eq, pow_one]
    · rw [hf, toNat_flagWord, highBit]

/-- A random value is masked bit by bit, and the upper eight bits of the register are 0 (R171). -/
theorem getLsbD_byteWord_and (r nn : Byte) (j : Nat) :
    (byteWord (r &&& nn)).getLsbD j = (decide (j < 8) && r.getLsbD j && nn.getLsbD j) := by
  rw [byteWord, BitVec.getLsbD_setWidth, BitVec.getLsbD_and]
  by_cases hj : j < 8
  · simp [hj, hj.trans (by decide : 8 < 16)]
  · simp [hj, BitVec.getLsbD_of_ge r j (Nat.le_of_not_lt hj)]

theorem toNat_byteWord_and_le (r nn : Byte) : (byteWord (r &&& nn)).toNat ≤ nn.toNat := by
  rw [byteWord, BitVec.toNat_setWidth_of_le (by decide), BitVec.toNat_and]
  exact Nat.and_le_right

/-- What `CXNN` does with the value `r` presented (R171). -/
theorem rndWith_answers (r : Byte) (x : Reg) (nn : Byte) (s : State) :
    ∃ t, rndWith r x nn s = .next t ∧ t.getV x = byteWord (r &&& nn) ∧ t.draws = s.draws + 1 ∧ PcMoves 2 s t ∧
      Frame { v := [x], draws := true } s t :=
  ⟨_, rfl, s.getV_setV_self x _, rfl, toNat_add_two, (((Frame.refl _ s).setV (by simp) _).countDraw rfl).setPc _⟩

/-- Settles O38: `exec` is `rndWith` of the next value of the source. -/
theorem randomIsMasked : Obligations.RandomIsMasked := by
  intro x nn s
  constructor
  · obtain ⟨t, ht, hx, hrest⟩ := rndWith_answers (Config.random s.draws) x nn s
    exact ⟨t, ht, ht, hx ▸ toNat_byteWord_and_le _ nn, hrest⟩
  · intro r
    obtain ⟨t, ht, hx, hrest⟩ := rndWith_answers r x nn s
    exact ⟨t, ht, fun j _ => hx ▸ getLsbD_byteWord_and r nn j, hx ▸ toNat_byteWord_and_le r nn, hrest⟩

end Sys2Proof.Machine

/-! SUPPORT. The index register and memory: what a write of `I`, a store and a load of registers keep in a frame, what
a read sees after a store, and the statements about the instructions of spec/43 that follow. -/

namespace Sys2Proof.Machine

/-! ### A frame through the writes of these handlers -/

section IndexAndMemoryWrites

variable {c : Touched} {s t : State}

/-- A frame that leaves the index free is kept by a write of it. -/
theorem Frame.setI (h : Frame c s t) (hi : c.i = true) (w : Word) : Frame c s (t.setI w) :=
  { h with i := fun hi' => by simp [hi] at hi' }

/-- A frame that leaves free the addresses of a store is kept by it (R68). -/
theorem Frame.setMem {m : Memory} {a : Nat} {bs : List Byte} (h : Frame c s t) (hw : Memory.wf t.mem = true)
    (hm : Memory.storeBytes t.mem a bs = some m) (hc : ∀ k < bs.length, a + k ∈ c.mem) : Frame c s (t.setMem m) :=
  { h with
    mem := fun b hb => by
      have hout : b < a ∨ a + bs.length ≤ b := by
        by_contra hin
        have hab : a + (b - a) = b := by omega
        exact hb (hab ▸ hc (b - a) (by omega))
      exact (read_storeBytes_of_outside hm hw hout).trans (h.mem b hb) }

/-- A frame is kept by new contents of the registers that differ in the registers it leaves free only. -/
theorem Frame.withV (h : Frame c s t) {v : Vector Word 16} (hv : ∀ k : Reg, k ∉ c.v → v[k.toNat] = t.getV k) :
    Frame c s { t with v := v } :=
  { h with v := fun k hk => (hv k hk).trans (h.v k hk) }

/-- A frame that leaves free as many registers as there are bytes is kept by a load of those bytes (R195). -/
theorem Frame.loadRegs {bs : List Byte} (h : Frame c s t) (hc : ∀ k : Reg, k.toNat < bs.length → k ∈ c.v) :
    Frame c s (t.loadRegs bs) := by
  refine h.withV fun k hk => ?_
  have hlen : bs.length ≤ k.toNat := Nat.le_of_not_lt fun hlt => hk (hc k hlt)
  exact (t.getV_loadRegs bs k).trans (by rw [List.getElem?_eq_none hlen])

end IndexAndMemoryWrites

/-- The end of a handler that leaves `PC` alone moves `PC` by 2 (R125). -/
theorem pcMoves_advance {s u : State} (h : u.pc = s.pc) : PcMoves 2 s (u.setPc (u.pc + 2)) := fun hpc => by
  rw [State.setPc_pc, h, toNat_add_two hpc]

/-! ### Writes of the index alone -/

/-- A handler that writes the index and advances changes the index and `PC`. -/
theorem advance_setI (s : State) (w : Word) :
    ∃ t, advance (s.setI w) = .next t ∧ t.i = w ∧ PcMoves 2 s t ∧ Frame { i := true } s t :=
  ⟨_, rfl, rfl, toNat_add_two, ((Frame.refl _ s).setI rfl w).setPc _⟩

/-- Settles O39: both write the index. -/
theorem loadAndAddToIndex : Obligations.LoadAndAddToIndex := by
  constructor
  · intro nnn s
    obtain ⟨t, ht, hi, hrest⟩ := advance_setI s (addrWord nnn)
    exact ⟨t, ht, by rw [hi, toNat_addrWord], hrest⟩
  · intro x s
    obtain ⟨t, ht, hi, hrest⟩ := advance_setI s (s.i + s.getV x)
    exact ⟨t, ht, by rw [hi, BitVec.toNat_add], hrest⟩

/-- Settles O40: the product that fits is the index, and the one that does not raises the fault. -/
theorem fontAddressIsFiveTimes : Obligations.FontAddressIsFiveTimes := by
  refine fun x s => ⟨fun hp => ?_, fun hp => if_pos hp⟩
  obtain ⟨t, ht, hi, hrest⟩ := advance_setI s (BitVec.ofNat 16 ((s.getV x).toNat * 5))
  refine ⟨t, (if_neg (Nat.not_lt.mpr hp)).trans ht, ?_, hrest⟩
  rw [hi, BitVec.toNat_ofNat, Nat.mod_eq_of_lt (by omega)]

/-! ### Stores -/

/-- A read sees the byte that a store left at its address. -/
theorem read_storeBytes {m m' : Memory} {a k : Nat} {bs : List Byte} {b : Byte}
    (h : Memory.storeBytes m a bs = some m') (hw : Memory.wf m = true) (hk : bs[k]? = some b) :
    Memory.read m' (a + k) = some b := by
  obtain ⟨hlt, -⟩ := List.getElem?_eq_some_iff.mp hk
  have hne : bs ≠ [] := List.ne_nil_of_length_pos (Nat.zero_lt_of_lt hlt)
  have hfits : a + bs.length ≤ Config.memSize := (storeBytes_fits h).resolve_left hne
  refine read_some.mpr ⟨by omega, ?_⟩
  rw [(storeBytes_some h hw).2, if_pos (Nat.le_add_right a k), Nat.add_sub_cancel_left, hk, Option.getD_some]

theorem toNat_digit {d : Nat} (hd : d < 10) : (BitVec.ofNat 8 d).toNat = d := by
  rw [BitVec.toNat_ofNat, Nat.mod_eq_of_lt (by omega)]

section StoreDecimal

variable {x : Reg} {s : State}

/-- `FX33` of a value of at most 999 whose three addresses exist (R193). -/
theorem exec_ldBVx_of_stored {m : Memory}
    (hm : Memory.storeBytes s.mem s.i.toNat (decimalDigits (s.getV x).toNat) = some m) (hv : (s.getV x).toNat ≤ 999) :
    exec (.ldBVx x) s = advance (s.setMem m) := by
  simp only [exec, execLdBVx, hm, if_neg (Nat.not_lt.mpr hv)]

theorem exists_storeBytes_decimalDigits (a : Nat) (hi : s.i.toNat + 2 ≤ 0xFFF) :
    ∃ m, Memory.storeBytes s.mem s.i.toNat (decimalDigits a) = some m :=
  storeBytes_of_fits s.mem (by simp only [decimalDigits, List.length_cons, List.length_nil, Config.memSize]; omega)

theorem raises_memRange_ldBVx (hi : 0xFFF < s.i.toNat + 2) : Raises .memRange (.ldBVx x) s := by
  have hm : Memory.storeBytes s.mem s.i.toNat (decimalDigits (s.getV x).toNat) = none :=
    (storeBytes_none ..).mpr ⟨List.cons_ne_nil _ _, by
      simp only [decimalDigits, List.length_cons, List.length_nil, Config.memSize]
      omega⟩
  simp only [Raises, exec, execLdBVx, hm, raise, takeFault]

theorem raises_valueRange_ldBVx (hi : s.i.toNat + 2 ≤ 0xFFF) (hv : 999 < (s.getV x).toNat) :
    Raises .valueRange (.ldBVx x) s := by
  obtain ⟨m, hm⟩ := exists_storeBytes_decimalDigits (s.getV x).toNat hi
  simp only [Raises, exec, execLdBVx, hm, if_pos hv, raise, takeFault]

end StoreDecimal

/-- Settles O41: the digits are read back from the store, each being below 10. -/
theorem storeDecimalDigits : Obligations.StoreDecimalDigits := by
  refine fun x s hw => ⟨fun hi hv => ?_, raises_memRange_ldBVx, raises_valueRange_ldBVx⟩
  obtain ⟨m, hm⟩ := exists_storeBytes_decimalDigits (s.getV x).toNat hi
  refine ⟨_, _, _, _, exec_ldBVx_of_stored hm hv, read_storeBytes (k := 0) hm hw rfl, read_storeBytes hm hw rfl,
    read_storeBytes hm hw rfl, toNat_digit (by omega), toNat_digit (by omega), toNat_digit (by omega), toNat_add_two,
    ((Frame.refl _ s).setMem hw hm fun k hk => ?_).setPc _⟩
  simp only [decimalDigits, List.length_cons, List.length_nil] at hk
  simp only [List.mem_cons, List.not_mem_nil, or_false]
  omega

section StoreRegisterList

variable {x : Reg} {s : State}

theorem getElem?_regsUpTo {k : Reg} (hk : k ≤ x) : (s.regsUpTo x)[k.toNat]? = some (s.getV k) := by
  have hlt : k.toNat < x.toNat + 1 := Nat.lt_succ_of_le hk
  rw [State.regsUpTo, List.getElem?_take_of_lt hlt]
  simp [State.getV, k.isLt]

/-- The list that `FX55` stores holds the registers up to `X` and no other. -/
theorem mem_regsUpTo {w : Word} : w ∈ s.regsUpTo x ↔ ∃ k : Reg, k ≤ x ∧ s.getV k = w := by
  constructor
  · intro hw
    obtain ⟨n, hn, rfl⟩ := List.mem_take_iff_getElem.mp hw
    rw [Vector.length_toList] at hn
    have hnx : n < x.toNat + 1 := by omega
    exact ⟨BitVec.ofNatLT n (by omega), Nat.le_of_lt_succ hnx, (Vector.getElem_toList _).symm⟩
  · rintro ⟨k, hk, rfl⟩
    exact List.mem_of_getElem? (getElem?_regsUpTo hk)

/-- The check of `FX55` finds a register that fits no byte exactly when one up to `X` is above 255 (R194). -/
theorem any_regsUpTo_iff :
    (s.regsUpTo x).any (fun w => decide (w.toNat > 255)) = true ↔ ∃ k : Reg, k ≤ x ∧ 255 < (s.getV k).toNat := by
  simp only [List.any_eq_true, decide_eq_true_eq, mem_regsUpTo]
  exact ⟨fun ⟨_, ⟨k, hk, e⟩, hlarge⟩ => ⟨k, hk, e ▸ hlarge⟩, fun ⟨k, hk, hlarge⟩ => ⟨_, ⟨k, hk, rfl⟩, hlarge⟩⟩

/-- The byte stored for a register of at most 255 is the register's value (R194). -/
theorem toNat_wordByte {w : Word} (hw : w.toNat ≤ 255) : (wordByte w).toNat = w.toNat := by
  rw [wordByte, BitVec.toNat_setWidth, Nat.mod_eq_of_lt (by omega)]

theorem exists_storeBytes_regsUpTo (hi : s.i.toNat + x.toNat ≤ 0xFFF) :
    ∃ m, Memory.storeBytes s.mem s.i.toNat ((s.regsUpTo x).map wordByte) = some m :=
  storeBytes_of_fits s.mem (by simp only [List.length_map, length_regsUpTo, Config.memSize]; omega)

/-- `FX55` of registers of at most 255 whose addresses exist (R194). -/
theorem exec_ldMemVx_of_stored {m : Memory}
    (hm : Memory.storeBytes s.mem s.i.toNat ((s.regsUpTo x).map wordByte) = some m)
    (hv : ∀ k : Reg, k ≤ x → (s.getV k).toNat ≤ 255) :
    exec (.ldMemVx x) s = advance ((s.setMem m).setI (BitVec.ofNat 16 (s.i.toNat + x.toNat + 1))) := by
  have hany : ¬ (s.regsUpTo x).any (fun w => decide (w.toNat > 255)) = true := by
    rw [any_regsUpTo_iff]
    exact fun ⟨k, hk, hlarge⟩ => Nat.not_le.mpr hlarge (hv k hk)
  simp only [exec, execLdMemVx, hm, if_neg hany]

theorem raises_memRange_ldMemVx (hi : 0xFFF < s.i.toNat + x.toNat) : Raises .memRange (.ldMemVx x) s := by
  have hm : Memory.storeBytes s.mem s.i.toNat ((s.regsUpTo x).map wordByte) = none := by
    have hlen : ((s.regsUpTo x).map wordByte).length = x.toNat + 1 := by rw [List.length_map, length_regsUpTo]
    refine (storeBytes_none ..).mpr ⟨List.ne_nil_of_length_pos (by omega), ?_⟩
    simp only [Config.memSize]
    omega
  simp only [Raises, exec, execLdMemVx, hm, raise, takeFault]

theorem raises_valueRange_ldMemVx (hi : s.i.toNat + x.toNat ≤ 0xFFF)
    (hv : ∃ k : Reg, k ≤ x ∧ 255 < (s.getV k).toNat) : Raises .valueRange (.ldMemVx x) s := by
  obtain ⟨m, hm⟩ := exists_storeBytes_regsUpTo hi
  simp only [Raises, exec, execLdMemVx, hm, if_pos (any_regsUpTo_iff.mpr hv), raise, takeFault]

end StoreRegisterList

/-- The index after `X + 1` bytes within memory does not wrap. -/
theorem toNat_indexAfter {i : Word} {x : Reg} (hi : i.toNat + x.toNat ≤ 0xFFF) :
    (BitVec.ofNat 16 (i.toNat + x.toNat + 1)).toNat = i.toNat + x.toNat + 1 := by
  rw [BitVec.toNat_ofNat, Nat.mod_eq_of_lt (by omega)]

/-- Settles O42: each register is read back from the store as its byte. -/
theorem storeRegisters : Obligations.StoreRegisters := by
  refine fun x s hw => ⟨fun hi hv => ?_, raises_memRange_ldMemVx, raises_valueRange_ldMemVx⟩
  obtain ⟨m, hm⟩ := exists_storeBytes_regsUpTo hi
  refine ⟨_, exec_ldMemVx_of_stored hm hv, fun k hk => ⟨wordByte (s.getV k), ?_, toNat_wordByte (hv k hk)⟩,
    toNat_indexAfter hi, toNat_add_two, (((Frame.refl _ s).setMem hw hm fun k hk => ?_).setI rfl _).setPc _⟩
  · exact read_storeBytes hm hw (by rw [List.getElem?_map, getElem?_regsUpTo hk, Option.map_some])
  · rw [List.length_map, length_regsUpTo] at hk
    exact List.mem_map_of_mem (List.mem_range.mpr hk)

/-! ### Loads -/

/-- A load of `n` bytes answers the byte that a read sees at each of its addresses (R65). -/
theorem loadBytes_some {m : Memory} {a n : Nat} {bs : List Byte} (h : Memory.loadBytes m a n = some bs) :
    bs.length = n ∧ ∀ k < n, ∃ b, bs[k]? = some b ∧ Memory.read m (a + k) = some b := by
  rw [loadBytes_eq, Option.ite_none_right_eq_some, Option.some.injEq] at h
  obtain ⟨hfits, rfl⟩ := h
  exact ⟨by simp, fun k hk => ⟨Memory.get m (a + k), by simp [hk], read_some.mpr ⟨by omega, rfl⟩⟩⟩

section LoadRegisterList

variable {x : Reg} {s : State}

/-- `FX65` of a list of bytes that memory answers (R195). -/
theorem exec_ldVxMem_of_loaded {bs : List Byte} (hbs : Memory.loadBytes s.mem s.i.toNat (x.toNat + 1) = some bs) :
    exec (.ldVxMem x) s = advance ((s.loadRegs bs).setI (BitVec.ofNat 16 (s.i.toNat + x.toNat + 1))) := by
  simp only [exec, execLdVxMem, hbs]

theorem exists_loadBytes_upTo (hi : s.i.toNat + x.toNat ≤ 0xFFF) :
    ∃ bs, Memory.loadBytes s.mem s.i.toNat (x.toNat + 1) = some bs :=
  ⟨_, (loadBytes_eq ..).trans (if_pos (by simp only [Config.memSize]; omega))⟩

theorem raises_memRange_ldVxMem (hi : 0xFFF < s.i.toNat + x.toNat) : Raises .memRange (.ldVxMem x) s := by
  have hbs : Memory.loadBytes s.mem s.i.toNat (x.toNat + 1) = none :=
    (loadBytes_eq ..).trans (if_neg (by simp only [Config.memSize]; omega))
  simp only [Raises, exec, execLdVxMem, hbs, raise, takeFault]

/-- The frame of `FX65` lists the registers up to `X`. -/
theorem mem_map_range_of_le {k : Reg} (hk : k ≤ x) : k ∈ (List.range (x.toNat + 1)).map (BitVec.ofNat 4) :=
  List.mem_map.mpr ⟨k.toNat, List.mem_range.mpr (Nat.lt_succ_of_le hk), by simp⟩

end LoadRegisterList

/-- Settles O43: a register of the list holds the byte that a read sees, and one above it is not loaded. -/
theorem loadRegisters : Obligations.LoadRegisters := by
  refine fun x s => ⟨fun hi => ?_, raises_memRange_ldVxMem⟩
  obtain ⟨bs, hbs⟩ := exists_loadBytes_upTo hi
  obtain ⟨hlen, hread⟩ := loadBytes_some hbs
  refine ⟨_, exec_ldVxMem_of_loaded hbs, fun k hk => ?_, fun k hk => ?_, toNat_indexAfter hi,
    pcMoves_advance (by rw [State.setI_pc, State.loadRegs_pc]),
    (((Frame.refl _ s).loadRegs fun k hk => ?_).setI rfl _).setPc _⟩
  · obtain ⟨b, hb, hr⟩ := hread k.toNat (Nat.lt_succ_of_le hk)
    refine ⟨b, hr, ?_⟩
    rw [State.getV_setPc, State.getV_setI, State.getV_loadRegs, hb]
    exact BitVec.toNat_setWidth_of_le (by decide)
  · rw [State.getV_setPc, State.getV_setI, State.getV_loadRegs, List.getElem?_eq_none (hlen ▸ Nat.succ_le_of_lt hk)]
  · exact mem_map_range_of_le (Nat.le_of_lt_succ (hk.trans_eq hlen))

/-! ### A store and the load that undoes it -/

/-- A handler that raises a fault answers a state that records it (R251). -/
theorem Raises.fault_eq {c : FaultCode} {i : Instr} {s t : State} (h : Raises c i s) (ht : exec i s = .next t) :
    t.fault = c := by
  obtain rfl : { s with fault := c } = t := by simpa using h.symm.trans ht
  rfl

/-- Settles O44: a store that completes had its addresses in memory and its registers within a byte, so that each byte
that the load reads is the register stored. -/
theorem storeThenLoadRoundTrips : Obligations.StoreThenLoadRoundTrips := by
  intro x s t v hw _ ht hok
  obtain ⟨hstore, hmemRange, hvalueRange⟩ := storeRegisters x s hw
  have hi : s.i.toNat + x.toNat ≤ 0xFFF := by
    by_contra hi
    cases hok.symm.trans ((hmemRange (Nat.lt_of_not_le hi)).fault_eq ht)
  have hv : ∀ k : Reg, k ≤ x → (s.getV k).toNat ≤ 255 := by
    by_contra! hv
    cases hok.symm.trans ((hvalueRange hi hv).fault_eq ht)
  obtain ⟨t', ht', hstored, hti, -, -⟩ := hstore hi hv
  obtain rfl : t = t' := by simpa using ht.symm.trans ht'
  obtain ⟨u, hu, hloaded, -, hui, -, -⟩ := (loadRegisters x { t with i := s.i, v := v }).1 hi
  refine ⟨u, hu, fun k hk => ?_, hti, BitVec.eq_of_toNat_eq (hui.trans hti.symm)⟩
  obtain ⟨b, hb, hbv⟩ := hstored k hk
  obtain ⟨b', hb', hub⟩ := hloaded k hk
  obtain rfl : b = b' := by simpa using hb.symm.trans hb'
  exact BitVec.eq_of_toNat_eq (hub.trans hbv)

end Sys2Proof.Machine

/-! SUPPORT. The frame buffer: the cells and pixels of a sprite that memory answers, what a draw that completes leaves,
and the statements about the instructions of spec/44 that follow. -/

namespace Sys2Proof.Machine

/-- A frame that leaves free the cells in which two buffers differ is kept by replacing one with the other. -/
theorem Frame.setFb {c : Touched} {s t : State} {fb : FrameBuffer} (h : Frame c s t)
    (hfb : ∀ k < 2048, k ∉ c.fb → FrameBuffer.read fb k = FrameBuffer.read t.fb k) : Frame c s (t.setFb fb) :=
  { h with fb := fun k hk hout => (hfb k hk hout).trans (h.fb k hk hout) }

/-- Settles O46: the frame leaves every cell free. -/
theorem clearTurnsEveryPixelOff : Obligations.ClearTurnsEveryPixelOff := by
  refine fun s => ⟨_, rfl, fun k _ => fbRead_clear k, toNat_add_two,
    ((Frame.refl _ s).setFb fun k hk hout => ?_).setPc _⟩
  simp only [List.mem_range] at hout
  exact absurd hk hout

/-! ### The cells of a sprite -/

/-- The cells drawn are the area of R212, in the same order. -/
theorem map_fst_spriteCells (a b : Word) (rows : List Byte) :
    (spriteCells a b rows).map Prod.fst = spriteArea a.toNat b.toNat rows.length := by
  have hidx : List.range rows.length = rows.zipIdx.map Prod.snd := by
    rw [List.zipIdx_map_snd, List.range_eq_range']
  rw [spriteArea, hidx, List.flatMap_map, spriteCells, List.map_flatMap]
  simp [targetCell, Function.comp_def]

theorem mem_spriteArea {a b n k : Nat} :
    k ∈ spriteArea a b n ↔ ∃ row col, row < n ∧ col < 8 ∧ k = (a + col) + (b + row) * 64 := by
  simp only [spriteArea, List.mem_flatMap, List.mem_map, List.mem_range, eq_comm (a := k)]
  exact ⟨fun ⟨row, hrow, col, hcol, e⟩ => ⟨row, col, hrow, hcol, e⟩,
    fun ⟨row, col, hrow, hcol, e⟩ => ⟨row, hrow, col, hcol, e⟩⟩

/-- No two pixels of a sprite fall on one cell: its 8 columns do not reach from one row to the next. -/
theorem nodup_spriteArea (a b n : Nat) : (spriteArea a b n).Nodup := by
  refine List.nodup_flatMap.mpr ⟨fun row _ => ?_, List.nodup_range.imp fun {row row'} hne => ?_⟩
  · exact List.nodup_range.map fun col col' e => by omega
  · intro k hk hk'
    obtain ⟨col, hcol, rfl⟩ := List.mem_map.mp hk
    obtain ⟨col', hcol', e⟩ := List.mem_map.mp hk'
    rw [List.mem_range] at hcol hcol'
    omega

/-- Where no two pixels fall on one cell, a cell is inverted by its own pixel alone. -/
theorem toggles_of_mem {cells : List (Nat × Bool)} (hnodup : (cells.map Prod.fst).Nodup) {k : Nat} {p : Bool}
    (hmem : (k, p) ∈ cells) : toggles cells k = p := by
  induction cells with
  | nil => cases hmem
  | cons c cells ih =>
    obtain ⟨hout, hnodup⟩ := List.nodup_cons.mp hnodup
    have hcons : toggles (c :: cells) k = ((decide (c.1 = k) && c.2) ^^ toggles cells k) := rfl
    obtain rfl | hmem := List.mem_cons.mp hmem
    · simp [hcons, toggles_of_not_mem cells k hout]
    · have hne : c.1 ≠ k := fun e => hout (e ▸ List.mem_map_of_mem (f := Prod.fst) hmem)
      simp [hcons, ih hnodup hmem, hne]

/-- The same draw a second time undoes the first: every cell is inverted as often again (R213, R218). -/
theorem drawCells_drawCells (fb : FrameBuffer) {cells : List (Nat × Bool)} (hin : ∀ c ∈ cells, c.1 < Config.fbCells) :
    drawCells (drawCells fb cells) cells = fb :=
  fb_ext fun k _ => by simp [fbRead_drawCells _ _ hin]

/-! ### A draw that completes -/

/-- What a draw writes: the frame buffer, and the collision over the buffer from before it in `VF` (R213, R214). -/
def State.drawSprite (s : State) (cells : List (Nat × Bool)) : State :=
  (s.setFb (drawCells s.fb cells)).setV flagReg (flagWord (collides s.fb cells))

@[simp] theorem State.drawSprite_fb (s : State) (cells : List (Nat × Bool)) :
    (s.drawSprite cells).fb = drawCells s.fb cells := rfl

@[simp] theorem State.getV_drawSprite_flag (s : State) (cells : List (Nat × Bool)) :
    (s.drawSprite cells).getV 0xF = flagWord (collides s.fb cells) :=
  State.getV_setV_self _ flagReg _

theorem toNat_flagWord_zero_or_one (f : Bool) : (flagWord f).toNat = 1 ∨ (flagWord f).toNat = 0 := by
  cases f <;> decide

theorem toNat_flagWord_eq_one {f : Bool} : (flagWord f).toNat = 1 ↔ f = true := by
  cases f <;> decide

/-- A fault that a handler raises is recorded (R251). -/
theorem fault_of_raise {c : FaultCode} {s t : State} (h : raise c s = .next t) : t.fault = c := by
  rw [(raise_next c s t).mp h, takeFault_fault]

section Draw

variable {x y : Reg} {n : Nibble} {s t : State}

/-- A draw whose bytes memory answers and whose cells exist completes (R215, R217). -/
theorem exec_drw_of_loaded {rows : List Byte} (hrows : Memory.loadBytes s.mem s.i.toNat n.toNat = some rows)
    (hfits : spriteFits (s.getV x) (s.getV y) n.toNat = true) :
    exec (.drw x y n) s = advance (s.drawSprite (spriteCells (s.getV x) (s.getV y) rows)) := by
  simp only [exec, execDrw, hrows, if_pos hfits, State.drawSprite]

/-- A draw that recorded no fault had its bytes in memory and its cells in the frame buffer (R217). -/
theorem loaded_and_fits_of_drw (h : exec (.drw x y n) s = .next t) (hok : t.fault = .noFault) :
    (∃ rows, Memory.loadBytes s.mem s.i.toNat n.toNat = some rows) ∧
      spriteFits (s.getV x) (s.getV y) n.toNat = true := by
  simp only [exec, execDrw] at h
  split at h
  · cases hok.symm.trans (fault_of_raise h)
  next rows hrows =>
    split_ifs at h with hfits
    · exact ⟨⟨rows, hrows⟩, hfits⟩
    · cases hok.symm.trans (fault_of_raise h)

theorem raises_memRange_drw (hn : n.toNat ≠ 0) (hi : 0xFFF < s.i.toNat + n.toNat - 1) :
    Raises .memRange (.drw x y n) s := by
  have hrows : Memory.loadBytes s.mem s.i.toNat n.toNat = none :=
    (loadBytes_eq ..).trans (if_neg (by simp only [Config.memSize]; omega))
  simp only [Raises, exec, execDrw, hrows, raise, takeFault]

theorem exists_loadBytes_sprite (hi : n.toNat = 0 ∨ s.i.toNat + n.toNat - 1 ≤ 0xFFF) :
    ∃ rows, Memory.loadBytes s.mem s.i.toNat n.toNat = some rows :=
  ⟨_, (loadBytes_eq ..).trans (if_pos (by simp only [Config.memSize]; omega))⟩

theorem raises_fbRange_drw (hn : n.toNat ≠ 0) (hi : s.i.toNat + n.toNat - 1 ≤ 0xFFF)
    (hcell : 2047 < ((s.getV x).toNat + 7) + ((s.getV y).toNat + n.toNat - 1) * 64) :
    Raises .fbRange (.drw x y n) s := by
  obtain ⟨rows, hrows⟩ := exists_loadBytes_sprite (.inr hi)
  have hfits : ¬ spriteFits (s.getV x) (s.getV y) n.toNat = true := by
    simp only [spriteFits, decide_eq_true_eq, Config.fbWidth, Config.fbCells]
    omega
  simp only [Raises, exec, execDrw, hrows, if_neg hfits, raise, takeFault]

end Draw

section LoadedSprite

variable {n : Nibble} {s : State} {rows : List Byte} {a b : Word}
  (hrows : Memory.loadBytes s.mem s.i.toNat n.toNat = some rows)
include hrows

/-- The cells of a sprite that memory answers, with their pixels (R211, R212). -/
theorem mem_spriteCells_of_loaded {c : Nat × Bool} : c ∈ spriteCells a b rows ↔
    ∃ row col, row < n.toNat ∧ col < 8 ∧ c = (targetCell a b row col, spritePixel s row col) := by
  obtain ⟨hlen, hread⟩ := loadBytes_some hrows
  have hpixel : ∀ row < n.toNat, ∃ byte, rows[row]? = some byte ∧ ∀ col, pixel byte col = spritePixel s row col := by
    intro row hrow
    obtain ⟨byte, hbyte, hr⟩ := hread row hrow
    exact ⟨byte, hbyte, fun col => by rw [pixel, spritePixel, (read_some.mp hr).2]⟩
  rw [mem_spriteCells]
  constructor
  · rintro ⟨row, col, byte, hbyte, hcol, rfl⟩
    have hrow : row < n.toNat := hlen ▸ (List.getElem?_eq_some_iff.mp hbyte).1
    obtain ⟨byte', hbyte', hp⟩ := hpixel row hrow
    obtain rfl : byte = byte' := by simpa using hbyte.symm.trans hbyte'
    exact ⟨row, col, hrow, hcol, by rw [hp]⟩
  · rintro ⟨row, col, hrow, hcol, rfl⟩
    obtain ⟨byte, hbyte, hp⟩ := hpixel row hrow
    exact ⟨row, col, byte, hbyte, hcol, by rw [hp]⟩

/-- A collision is a pixel that is 1 over a lit cell (R214). -/
theorem collides_iff_of_loaded {fb : FrameBuffer} : collides fb (spriteCells a b rows) = true ↔
    ∃ row col, row < n.toNat ∧ col < 8 ∧ spritePixel s row col = true ∧
      FrameBuffer.read fb (targetCell a b row col) = true := by
  simp only [collides, List.any_eq_true, mem_spriteCells_of_loaded hrows, Bool.and_eq_true]
  constructor
  · rintro ⟨_, ⟨row, col, hrow, hcol, rfl⟩, hp, hlit⟩
    exact ⟨row, col, hrow, hcol, hp, hlit⟩
  · rintro ⟨row, col, hrow, hcol, hp, hlit⟩
    exact ⟨_, ⟨row, col, hrow, hcol, rfl⟩, hp, hlit⟩

/-- A draw over cells that were unlit finds no collision (R214). -/
theorem collides_of_unlit {fb : FrameBuffer}
    (hunlit : ∀ k ∈ spriteArea a.toNat b.toNat n.toNat, FrameBuffer.read fb k = false) :
    collides fb (spriteCells a b rows) = false := by
  rw [← Bool.not_eq_true, collides_iff_of_loaded hrows]
  rintro ⟨row, col, hrow, hcol, -, hlit⟩
  cases hlit.symm.trans (hunlit _ (mem_spriteArea.mpr ⟨row, col, hrow, hcol, rfl⟩))

theorem map_fst_spriteCells_of_loaded :
    (spriteCells a b rows).map Prod.fst = spriteArea a.toNat b.toNat n.toNat := by
  rw [map_fst_spriteCells, (loadBytes_some hrows).1]

variable (hfits : spriteFits a b n.toNat = true)
include hfits

theorem spriteCells_lt_of_loaded : ∀ c ∈ spriteCells a b rows, c.1 < Config.fbCells :=
  spriteCells_lt ((loadBytes_some hrows).1.symm ▸ hfits)

/-- A draw XORs each pixel into its cell (R213). -/
theorem fbRead_drawCells_targetCell (fb : FrameBuffer) {row col : Nat} (hrow : row < n.toNat) (hcol : col < 8) :
    FrameBuffer.read (drawCells fb (spriteCells a b rows)) (targetCell a b row col) =
      (FrameBuffer.read fb (targetCell a b row col) ^^ spritePixel s row col) := by
  have hnodup : ((spriteCells a b rows).map Prod.fst).Nodup := by
    rw [map_fst_spriteCells_of_loaded hrows]
    exact nodup_spriteArea ..
  rw [fbRead_drawCells _ _ (spriteCells_lt_of_loaded hrows hfits),
    toggles_of_mem hnodup ((mem_spriteCells_of_loaded hrows).mpr ⟨row, col, hrow, hcol, rfl⟩)]

/-- A draw over cells that were unlit leaves the sprite's own pixels there, so that the next one finds a collision
exactly if some pixel is 1 (R218). -/
theorem collides_drawCells_of_unlit {fb : FrameBuffer}
    (hunlit : ∀ k ∈ spriteArea a.toNat b.toNat n.toNat, FrameBuffer.read fb k = false) :
    collides (drawCells fb (spriteCells a b rows)) (spriteCells a b rows) = true ↔
      ∃ row col, row < n.toNat ∧ col < 8 ∧ spritePixel s row col = true := by
  rw [collides_iff_of_loaded hrows]
  refine exists₂_congr fun row col => and_congr_right fun hrow => and_congr_right fun hcol => ?_
  have hcell : FrameBuffer.read fb (targetCell a b row col) = false :=
    hunlit _ (mem_spriteArea.mpr ⟨row, col, hrow, hcol, rfl⟩)
  rw [fbRead_drawCells_targetCell hrows hfits fb hrow hcol, hcell, Bool.false_xor, and_self]

/-- A draw leaves the cells outside its area alone (R213). -/
theorem fbRead_drawCells_of_not_mem (fb : FrameBuffer) {k : Nat} (hk : k ∉ spriteArea a.toNat b.toNat n.toNat) :
    FrameBuffer.read (drawCells fb (spriteCells a b rows)) k = FrameBuffer.read fb k := by
  rw [← map_fst_spriteCells_of_loaded hrows] at hk
  rw [fbRead_drawCells _ _ (spriteCells_lt_of_loaded hrows hfits), toggles_of_not_mem _ _ hk, Bool.xor_false]

/-- A draw that completes writes `VF` and the cells of its area (R215). -/
theorem frame_drawSprite :
    Frame { v := [0xF], fb := spriteArea a.toNat b.toNat n.toNat } s (s.drawSprite (spriteCells a b rows)) :=
  ((Frame.refl _ s).setFb fun _ _ hk => fbRead_drawCells_of_not_mem hrows hfits s.fb hk).setV (by simp [flagReg]) _

end LoadedSprite

/-- Settles O47: the sprite's bytes are loaded and its cells fit, so that each pixel is XORed into its own cell. -/
theorem drawXorsTheSprite : Obligations.DrawXorsTheSprite := by
  refine fun x y n s => ⟨fun h => ?_, raises_memRange_drw, raises_fbRange_drw⟩
  obtain ⟨rows, hrows⟩ := exists_loadBytes_sprite (h.imp_right And.left)
  have hfits : spriteFits (s.getV x) (s.getV y) n.toNat = true :=
    decide_eq_true (h.imp_right fun hcell => Nat.lt_succ_of_le hcell.2)
  refine ⟨_, exec_drw_of_loaded hrows hfits, fun row col hrow hcol => ?_, ?_, ?_, toNat_add_two,
    (frame_drawSprite hrows hfits).setPc _⟩
  · rw [Bool.bne_eq_xor]
    exact fbRead_drawCells_targetCell hrows hfits s.fb hrow hcol
  · rw [State.getV_setPc, State.getV_drawSprite_flag]
    exact toNat_flagWord_zero_or_one _
  · rw [State.getV_setPc, State.getV_drawSprite_flag, toNat_flagWord_eq_one]
    exact collides_iff_of_loaded hrows

/-- Settles O48: the second draw has the same cells as the first, and over cells that were unlit it finds the sprite's
own pixels. -/
theorem drawingTwiceRestores : Obligations.DrawingTwiceRestores := by
  intro x y n s t _ ht hok hx hy
  obtain ⟨⟨rows, hrows⟩, hfits⟩ := loaded_and_fits_of_drw ht hok
  rw [exec_drw_of_loaded hrows hfits, advance_next] at ht
  have htrows : Memory.loadBytes t.mem t.i.toNat n.toNat = some rows := by rw [ht]; exact hrows
  have htfits : spriteFits (t.getV x) (t.getV y) n.toNat = true := by rw [hx, hy]; exact hfits
  have htfb : t.fb = drawCells s.fb (spriteCells (s.getV x) (s.getV y) rows) := by rw [ht]; rfl
  refine ⟨_, exec_drw_of_loaded htrows htfits, ?_, fun hunlit => ⟨?_, ?_, ?_⟩⟩
  · rw [hx, hy, State.setPc_fb, State.drawSprite_fb, htfb, drawCells_drawCells _ (spriteCells_lt_of_loaded hrows hfits)]
  · rw [ht, State.getV_setPc, State.getV_drawSprite_flag, collides_of_unlit hrows hunlit, toNat_flagWord]
    rfl
  · rw [State.getV_setPc, State.getV_drawSprite_flag]
    exact toNat_flagWord_zero_or_one _
  · rw [hx, hy, State.getV_setPc, State.getV_drawSprite_flag, toNat_flagWord_eq_one, htfb]
    exact collides_drawCells_of_unlit hrows hfits hunlit

end Sys2Proof.Machine

/-! SUPPORT. The keypad and the timers: what the key skips answer on each side of 15, what the wait for a key answers,
what a write of a timer keeps in a frame, how a cycle around a completed handler ends, and the statements about the
instructions of spec/45 that follow. -/

namespace Sys2Proof.Machine

/-! ### The cycle around a handler that completes -/

section CompletedCycle

variable {i : Instr} {s u : State}

/-- An instruction that memory holds at `PC` was fetched from an address within range (R122). -/
theorem AtPc.pc_le (h : AtPc i s) : s.pc.toNat ≤ 0xFFE := by
  obtain ⟨op, hf, -⟩ := h.fetch_decode
  exact ((fetch_some s op).mp hf).1

/-- A cycle leaves `PC` where its handler moved it. -/
theorem AtPc.toNat_pc_decay {n : Nat} (h : AtPc i s) (hpc : PcMoves n s u) :
    (decay u).pc.toNat = s.pc.toNat + n := by
  rw [decay_pc, hpc h.pc_le]

/-- A handler that records no fault is followed by the decay (R129). -/
theorem AtPc.step_eq_decay (h : AtPc i s) (hs : s.fault = .noFault) (hu : exec i s = .next u)
    (hfault : u.fault = s.fault) : step s = .next (decay u) := by
  rw [stepRunsDecodedInstruction i s u hs h hu, if_pos (hfault.trans hs)]

end CompletedCycle

theorem getV_decay (s : State) (k : Reg) : (decay s).getV k = s.getV k := by
  simp only [State.getV, decay_v]

/-! ### Skips on keys -/

section KeySkips

variable {x : Reg} {s : State}

theorem keyOf_getV_of_lt (h : (s.getV x).toNat < 16) : s.keyOf (s.getV x) = some s.keys[(s.getV x).toNat] :=
  keyOf_some.mpr ⟨h, rfl⟩

/-- `EX9E` of a register that names a key is a skip on its latch (R230). -/
theorem exec_skp_of_lt (h : (s.getV x).toNat < 16) :
    exec (.skp x) s = advance (skipIf s.keys[(s.getV x).toNat] s) := by
  simp only [exec, execSkp, keyOf_getV_of_lt h]

/-- `EXA1` of a register that names a key is a skip on the negation of its latch (R231). -/
theorem exec_sknp_of_lt (h : (s.getV x).toNat < 16) :
    exec (.sknp x) s = advance (skipIf (!s.keys[(s.getV x).toNat]) s) := by
  simp only [exec, execSknp, keyOf_getV_of_lt h]

theorem raises_keyRange_skp (h : 15 < (s.getV x).toNat) : Raises .keyRange (.skp x) s := by
  simp only [Raises, exec, execSkp, (keyOf_none s _).mpr h, raise, takeFault]

theorem raises_keyRange_sknp (h : 15 < (s.getV x).toNat) : Raises .keyRange (.sknp x) s := by
  simp only [Raises, exec, execSknp, (keyOf_none s _).mpr h, raise, takeFault]

end KeySkips

/-- Settles O49: with a key named both are skips, on its latch and on the negation; with none both raise the fault. -/
theorem skipsOnKeys : Obligations.SkipsOnKeys := by
  refine fun x s => ⟨fun h => ⟨?_, ?_⟩, fun h => ⟨raises_keyRange_skp h, raises_keyRange_sknp h⟩⟩
  · rw [exec_skp_of_lt h]
    exact advance_skipIf s rfl
  · rw [exec_sknp_of_lt h]
    exact advance_skipIf s (by cases s.keys[(s.getV x).toNat] <;> rfl)

/-! ### The wait for a key -/

/-- `FX0A` with no key pressed leaves the state alone (R232). -/
theorem exec_ldVxK_of_no_key {s : State} (x : Reg) (h : ∀ k : Fin 16, s.keys[k.val] = false) :
    exec (.ldVxK x) s = .next s := by
  simp only [exec, execLdVxK, (lowestKey_none s).mpr h, stay]

/-- `FX0A` with a key pressed writes the least code that is (R232). -/
theorem exec_ldVxK_of_lowestKey {s : State} (x : Reg) {k : Nat} (h : s.lowestKey = some k) :
    exec (.ldVxK x) s = advance (s.setV x (BitVec.ofNat 16 k)) := by
  simp only [exec, execLdVxK, h]

/-- Settles O50: the key pressed below which none is pressed is the one found; with none found the cycle is its decay
alone. -/
theorem waitForKey : Obligations.WaitForKey := by
  refine fun x s => ⟨exec_ldVxK_of_no_key x, fun k hk hbelow => ?_, fun hs hat hnone => ?_⟩
  · have hlowest : s.lowestKey = some k.val := lowestKey_some.mpr ⟨k.isLt, hk, hbelow⟩
    obtain ⟨t, ht, hx, hrest⟩ := advance_setV s x (BitVec.ofNat 16 k.val)
    refine ⟨t, (exec_ldVxK_of_lowestKey x hlowest).trans ht, ?_, hrest⟩
    rw [hx, BitVec.toNat_ofNat, Nat.mod_eq_of_lt (by omega)]
  · exact ⟨decay s, hat.step_eq_decay hs (exec_ldVxK_of_no_key x hnone) rfl, decay_timers s⟩

/-! ### Reading the delay timer -/

theorem exec_ldVxDt (x : Reg) (s : State) : exec (.ldVxDt x) s = advance (s.setV x s.dt) := rfl

/-- Settles O51: the register holds the timer of the cycle's start, and the decay comes after it. -/
theorem readDelayTimer : Obligations.ReadDelayTimer := by
  intro x s
  obtain ⟨t, ht, hx, hpc, hframe⟩ := advance_setV s x s.dt
  rw [← exec_ldVxDt] at ht
  refine ⟨⟨t, ht, hx, hpc, hframe⟩, fun hs hat => ?_⟩
  refine ⟨decay t, hat.step_eq_decay hs ht hframe.fault, ?_, ?_, hat.toNat_pc_decay hpc⟩
  · rw [getV_decay, hx]
  · rw [(decay_timers t).1, hframe.dt rfl]

/-! ### Setting a timer -/

section TimerWrites

variable {c : Touched} {s t : State}

/-- A frame that leaves the delay timer free is kept by a write of it. -/
theorem Frame.setDt (h : Frame c s t) (hd : c.dt = true) (w : Word) : Frame c s (t.setDt w) :=
  { h with dt := fun hd' => by simp [hd] at hd' }

/-- A frame that leaves the sound timer free is kept by a write of it. -/
theorem Frame.setSt (h : Frame c s t) (hd : c.st = true) (w : Word) : Frame c s (t.setSt w) :=
  { h with st := fun hd' => by simp [hd] at hd' }

end TimerWrites

/-- `FX15` leaves in the delay timer the whole register (R234). -/
theorem exec_ldDtVx_answers (x : Reg) (s : State) :
    ∃ t, exec (.ldDtVx x) s = .next t ∧ t.dt = s.getV x ∧ PcMoves 2 s t ∧ Frame { dt := true } s t :=
  ⟨_, rfl, rfl, toNat_add_two, ((Frame.refl _ s).setDt rfl _).setPc _⟩

/-- `FX18` leaves in the sound timer the whole register (R235). -/
theorem exec_ldStVx_answers (x : Reg) (s : State) :
    ∃ t, exec (.ldStVx x) s = .next t ∧ t.st = s.getV x ∧ PcMoves 2 s t ∧ Frame { st := true } s t :=
  ⟨_, rfl, rfl, toNat_add_two, ((Frame.refl _ s).setSt rfl _).setPc _⟩

/-- Settles O52: the timer decays from the register's value, and beeps if that was 1. -/
theorem setTimerThenDecay : Obligations.SetTimerThenDecay := by
  intro x s
  refine ⟨exec_ldDtVx_answers x s, exec_ldStVx_answers x s, fun hs hat => ?_, fun hs hat => ?_⟩
  · obtain ⟨t, ht, hdt, hpc, hframe⟩ := exec_ldDtVx_answers x s
    refine ⟨decay t, hat.step_eq_decay hs ht hframe.fault, ?_, hat.toNat_pc_decay hpc⟩
    rw [(decay_timers t).1, hdt]
  · obtain ⟨t, ht, hst, hpc, hframe⟩ := exec_ldStVx_answers x s
    obtain ⟨-, hst', hbeeps, -⟩ := decay_timers t
    refine ⟨decay t, hat.step_eq_decay hs ht hframe.fault, ?_, hat.toNat_pc_decay hpc, ?_⟩
    · rw [hst', hst]
    · rw [hbeeps, hst, hframe.beeps]

end Sys2Proof.Machine

/-! SUPPORT. The host's transactions and the faults of a cycle: what a `LOAD` answers on each side of the longest image,
that a fault changes nothing but its register, which fault each handler records, and the statements that follow. -/

namespace Sys2Proof.Machine

/-! ### The host's transactions -/

/-- Settles O2: the reset state with the two counts is what the transaction writes. -/
theorem resetTransactionRestoresReset : Obligations.ResetTransactionRestoresReset := fun _ => ⟨_, rfl, rfl⟩

/-- Settles O4: each of the two writes the latch `k` of the vector of latches. -/
theorem pressAndReleaseSetOneKey : Obligations.PressAndReleaseSetOneKey := fun ss k =>
  ⟨ss.core.press k, ss.core.release k, rfl, rfl, Vector.getElem_set_self _, Vector.getElem_set_self _,
    fun j hj => ⟨Vector.getElem_set_ne k.isLt j.isLt hj.symm, Vector.getElem_set_ne k.isLt j.isLt hj.symm⟩, rfl, rfl⟩

section Load

variable {s : State} {image : List Byte}

/-- A `LOAD` of an image that is stored from `0x200` changes the memory alone (R272). -/
theorem transact_load_of_stored {m : Memory} (hm : Memory.storeBytes s.mem Config.progStart image = some m) :
    transact (.load image) ⟨s, .fresh⟩ = .next ⟨s.setMem m, .loaded⟩ := by
  simp only [transact, State.load, if_true, hm, Option.map_some]

/-- A `LOAD` of an image that does not fit is outside the interface (R294 (a)). -/
theorem transact_load_of_too_long (hlen : 3584 < image.length) :
    transact (.load image) ⟨s, .fresh⟩ = .refused .imageTooLong := by
  have hm : Memory.storeBytes s.mem Config.progStart image = none :=
    (storeBytes_none ..).mpr ⟨List.ne_nil_of_length_pos (by omega), by
      simp only [Config.progStart, Config.memSize]
      omega⟩
  simp only [transact, State.load, if_true, hm, Option.map_none]

/-- A `LOAD` after another or after a `CYCLE` is outside the interface (R294 (d)). -/
theorem transact_load_of_not_fresh {p : Phase} (hp : p ≠ .fresh) :
    transact (.load image) ⟨s, p⟩ = .refused .loadOutsideBoot :=
  if_neg hp

end Load

/-- Settles O3: an image of at most 3584 bytes is one store from `0x200`, which ends within memory. -/
theorem loadCopiesTheImage : Obligations.LoadCopiesTheImage := by
  refine fun s image hw => ⟨fun hlen => ?_, transact_load_of_too_long, fun p => transact_load_of_not_fresh⟩
  obtain ⟨m, hm⟩ : ∃ m, Memory.storeBytes s.mem Config.progStart image = some m :=
    storeBytes_of_fits s.mem (by simp only [Config.progStart, Config.memSize]; omega)
  refine ⟨s.setMem m, transact_load_of_stored hm, fun k hk => ?_, rfl, (Frame.refl _ s).setMem hw hm fun k hk => ?_⟩
  · rw [List.getElem?_eq_getElem hk]
    exact read_storeBytes hm hw (List.getElem?_eq_getElem hk)
  · exact List.mem_map_of_mem (List.mem_range.mpr hk)

/-! ### A fault changes nothing else -/

/-- The decay, and that it is left out after a fault, keep the code that the handler recorded (R129, R131). -/
theorem fault_ite_decay (u : State) : (if u.fault = .noFault then decay u else u).fault = u.fault := by
  split_ifs
  · exact decay_fault u
  · rfl

/-- A handler either raises a fault, which is all it does, or leaves `FAULT` alone (R251). -/
theorem Effect.fault_cases {i : Instr} {s t : State} (he : Effect s i t) :
    t = takeFault t.fault s ∨ t.fault = s.fault := by
  cases he with
  | fault c hc => exact .inl rfl
  | _ => exact .inr rfl

/-- Settles O15: a handler that recorded a fault did nothing else, and the decay is left out. -/
theorem faultsArePrecise : Obligations.FaultsArePrecise := by
  intro s t h ht
  obtain ⟨-, rfl⟩ | ⟨-, -, rfl⟩ | ⟨w, u, hs, -, hrun, rfl⟩ := step_cases h
  · rfl
  · rfl
  · rw [fault_ite_decay] at ht
    rw [if_neg ht]
    obtain ⟨i, -, hi⟩ | ⟨w', -, hw⟩ := hrun
    · exact (exec_effect hi).fault_cases.resolve_right fun he => ht (he.trans hs)
    · exact absurd (execUnrecognised_next.mp hw ▸ hs) ht

/-! ### Which fault a handler records -/

section RecordedFault

variable {i : Instr} {s t u : State}

/-- A handler that advances with no fault recorded records none. -/
theorem fault_of_advance (h : advance u = .next t) (hu : u.fault = .noFault) : t.fault = .noFault := by
  rw [(advance_next u t).mp h, State.setPc_fault, hu]

/-- A handler whose answer has the frame of a completed instruction records no fault. -/
theorem fault_of_frame {c : Touched} (hs : s.fault = .noFault) (hu : exec i s = .next u) (hframe : Frame c s u)
    (h : exec i s = .next t) : t.fault = .noFault := by
  obtain rfl : u = t := by simpa using hu.symm.trans h
  exact hframe.fault.trans hs

/-- One check of a handler: where its condition holds it raises the code, and elsewhere the rest of the handler says. -/
theorem fault_of_check {p : Prop} {_ : Decidable p} {c d : FaultCode} (h : exec i s = .next t)
    (hraise : p → Raises c i s) (hrest : ¬p → t.fault = d) : t.fault = if p then c else d := by
  split_ifs with hp
  · exact (hraise hp).fault_eq h
  · exact hrest hp

variable (hs : s.fault = .noFault)
include hs

theorem fault_of_ret (h : exec .ret s = .next t) : t.fault = faultOf .ret s := by
  obtain ⟨hcomplete, hraise⟩ := returnGoesPastTheCall s
  refine fault_of_check h hraise fun hsp => ?_
  obtain ⟨u, _, hu, -, -, -, hframe⟩ := hcomplete hsp
  exact fault_of_frame hs hu hframe h

theorem fault_of_call {nnn : Addr12} (h : exec (.call nnn) s = .next t) : t.fault = faultOf (.call nnn) s := by
  obtain ⟨hcomplete, hraise⟩ := callPushesItsOwnAddress nnn s
  refine fault_of_check h hraise fun hsp => ?_
  obtain ⟨u, hu, -, -, -, hframe⟩ := hcomplete hsp
  exact fault_of_frame hs hu hframe h

theorem fault_of_jpV0 {nnn : Addr12} (h : exec (.jpV0 nnn) s = .next t) : t.fault = faultOf (.jpV0 nnn) s := by
  obtain ⟨hcomplete, hraise⟩ := jumpWithOffset nnn s
  refine fault_of_check h hraise fun hsum => ?_
  obtain ⟨u, hu, -, hframe⟩ := hcomplete (Nat.le_of_not_lt hsum)
  exact fault_of_frame hs hu hframe h

/-- A sprite of no rows completes; else the memory range is checked before the cells (R215, R217, R255). -/
theorem fault_of_drw {x y : Reg} {n : Nibble} (h : exec (.drw x y n) s = .next t) :
    t.fault = faultOf (.drw x y n) s := by
  obtain ⟨hcomplete, hmemRange, hfbRange⟩ := drawXorsTheSprite x y n s
  simp only [faultOf]
  split_ifs with hn hi hcell
  · obtain ⟨u, hu, -, -, -, -, hframe⟩ := hcomplete (.inl hn)
    exact fault_of_frame hs hu hframe h
  · exact (hmemRange hn hi).fault_eq h
  · exact (hfbRange hn (Nat.le_of_not_lt hi) hcell).fault_eq h
  · obtain ⟨u, hu, -, -, -, -, hframe⟩ := hcomplete (.inr ⟨Nat.le_of_not_lt hi, Nat.le_of_not_lt hcell⟩)
    exact fault_of_frame hs hu hframe h

theorem fault_of_skp {x : Reg} (h : exec (.skp x) s = .next t) : t.fault = faultOf (.skp x) s := by
  refine fault_of_check h raises_keyRange_skp fun hkey => ?_
  rw [exec_skp_of_lt (Nat.lt_of_not_le hkey)] at h
  exact fault_of_advance h ((skipIf_fault _ s).trans hs)

theorem fault_of_sknp {x : Reg} (h : exec (.sknp x) s = .next t) : t.fault = faultOf (.sknp x) s := by
  refine fault_of_check h raises_keyRange_sknp fun hkey => ?_
  rw [exec_sknp_of_lt (Nat.lt_of_not_le hkey)] at h
  exact fault_of_advance h ((skipIf_fault _ s).trans hs)

theorem fault_of_ldFVx {x : Reg} (h : exec (.ldFVx x) s = .next t) : t.fault = faultOf (.ldFVx x) s := by
  obtain ⟨hcomplete, hraise⟩ := fontAddressIsFiveTimes x s
  refine fault_of_check h hraise fun hp => ?_
  obtain ⟨u, hu, -, -, hframe⟩ := hcomplete (Nat.le_of_not_lt hp)
  exact fault_of_frame hs hu hframe h

/-- The memory range is checked before the value (R255). -/
theorem fault_of_ldBVx {x : Reg} (h : exec (.ldBVx x) s = .next t) : t.fault = faultOf (.ldBVx x) s := by
  refine fault_of_check h raises_memRange_ldBVx fun hi => ?_
  have hfits : s.i.toNat + 2 ≤ 0xFFF := Nat.le_of_not_lt hi
  refine fault_of_check h (raises_valueRange_ldBVx hfits) fun hv => ?_
  obtain ⟨m, hm⟩ := exists_storeBytes_decimalDigits (s.getV x).toNat hfits
  rw [exec_ldBVx_of_stored hm (Nat.le_of_not_lt hv)] at h
  exact fault_of_advance h hs

/-- The memory range is checked before the values (R255). -/
theorem fault_of_ldMemVx {x : Reg} (h : exec (.ldMemVx x) s = .next t) : t.fault = faultOf (.ldMemVx x) s := by
  refine fault_of_check h raises_memRange_ldMemVx fun hi => ?_
  have hfits : s.i.toNat + x.toNat ≤ 0xFFF := Nat.le_of_not_lt hi
  refine fault_of_check h (raises_valueRange_ldMemVx hfits) fun hv => ?_
  obtain ⟨m, hm⟩ := exists_storeBytes_regsUpTo hfits
  rw [exec_ldMemVx_of_stored hm fun k hk => Nat.le_of_not_lt fun hlarge => hv ⟨k, hk, hlarge⟩] at h
  exact fault_of_advance h hs

theorem fault_of_ldVxMem {x : Reg} (h : exec (.ldVxMem x) s = .next t) : t.fault = faultOf (.ldVxMem x) s := by
  refine fault_of_check h raises_memRange_ldVxMem fun hi => ?_
  obtain ⟨bs, hbs⟩ := exists_loadBytes_upTo (Nat.le_of_not_lt hi)
  rw [exec_ldVxMem_of_loaded hbs] at h
  exact fault_of_advance h hs

/-- `FX0A` waits or advances, and raises no fault (R232, R253). -/
theorem fault_of_ldVxK {x : Reg} (h : exec (.ldVxK x) s = .next t) : t.fault = .noFault := by
  cases hk : s.lowestKey with
  | none =>
    rw [exec_ldVxK_of_no_key x ((lowestKey_none s).mp hk)] at h
    cases h
    exact hs
  | some k =>
    rw [exec_ldVxK_of_lowestKey x hk] at h
    exact fault_of_advance h hs

/-- The fault that a handler records is that of R252, with the priority of R255: ten handlers check a condition, and
the others advance, skip, jump or wait. -/
theorem exec_fault (h : exec i s = .next t) : t.fault = faultOf i s := by
  cases i with
  | ret => exact fault_of_ret hs h
  | call nnn => exact fault_of_call hs h
  | jpV0 nnn => exact fault_of_jpV0 hs h
  | drw x y n => exact fault_of_drw hs h
  | skp x => exact fault_of_skp hs h
  | sknp x => exact fault_of_sknp hs h
  | ldFVx x => exact fault_of_ldFVx hs h
  | ldBVx x => exact fault_of_ldBVx hs h
  | ldMemVx x => exact fault_of_ldMemVx hs h
  | ldVxMem x => exact fault_of_ldVxMem hs h
  | ldVxK x => exact fault_of_ldVxK hs h
  | jp nnn => exact (stay_next _ t).mp h ▸ hs
  | seImm | sneImm | seReg | sneReg => exact fault_of_advance h ((skipIf_fault _ s).trans hs)
  | _ => exact fault_of_advance h hs

end RecordedFault

/-- Settles O17: the fetch raises `FETCH_RANGE`, an unrecognised word raises nothing, and for the handlers the fault is
that of `exec_fault`. -/
theorem faultsAreThoseOfTheTable : Obligations.FaultsAreThoseOfTheTable := by
  refine ⟨fun s t hs h => ?_, rfl⟩
  obtain ⟨hne, -⟩ | ⟨-, hf, rfl⟩ | ⟨w, u, -, hf, hrun, rfl⟩ := step_cases h
  · exact absurd hs hne
  · rw [hf]
    rfl
  · rw [fault_ite_decay, hf]
    obtain ⟨i, hd, hi⟩ | ⟨w', hd, hw⟩ := hrun
    · simp only [hd]
      exact exec_fault hs hi
    · simp only [hd]
      exact execUnrecognised_next.mp hw ▸ hs

end Sys2Proof.Machine
